-- ==== Sys2Proof/Word.lean ====
section
/-! DEFINITION. The engine's word types (00_scope.md R13) and the shape of a byte space (20_memory.md R60). -/

namespace Sys2Proof

/-- An 8-bit unsigned value, bit 0 least significant (R13). -/
abbrev Byte := BitVec 8

/-- A request or response word (R90, R100), passed whole through the port (R68). -/
abbrev Word := BitVec 32

/-- A byte-addressed space (R60): the byte at address `i` is element `i`, and an address at or past the length
does not exist. Two spaces with equal contents are equal lists. -/
abbrev Memory := List Byte

end Sys2Proof
end

