-- ==== Sys2Proof/Config.lean ====
section
/-! DEFINITION. What construction fixes (00_scope.md R6 to R11, 10_state.md R34) and the free values: the receiver's
acknowledge (R186), the reset draws (R39), the OPEN default contrast (R11). -/

namespace Sys2Proof

/-- The receiver's answer at one AckWait (R186): `ack` if it pulled DIO low within the window, `nak` if not. -/
inductive Answer where
  | ack
  | nak
  deriving DecidableEq, Repr, Inhabited

/-- The construction parameters. No request writes one (R34). There is no clock: errs (D35) exact for functional claims,
timing claims are not expressible (log 16). -/
structure Config where
  /-- `DIGITS` (R6). -/
  digits : Nat
  /-- `CLK_PIN` (R7): opaque, only compared with `dioPin`. -/
  clkPin : Nat
  /-- `DIO_PIN` (R7). -/
  dioPin : Nat
  /-- `FONT` (R8, R62): (code, mask) pairs, flat. -/
  font : Memory
  /-- `T_ACK` in microseconds (R9). No rule of the model reads it (R300). -/
  tAck : Nat
  /-- `T_SETTLE` in microseconds (R10). No rule of the model reads it (R299). -/
  tSettle : Nat
  /-- `CONTRAST_DEFAULT` (R11), 0..7. -/
  contrastDefault : BitVec 3
  deriving DecidableEq, Repr

/-- The range R6 allows. A configuration outside it is refused at construction (R266). -/
abbrev Config.valid (c : Config) : Prop := 1 ≤ c.digits ∧ c.digits ≤ 6

/-- FREE VALUE (R186, I2): the receiver's answer at its `n`-th AckWait, where no answer is named.
Log 4. Errs (D10): unprovable. -/
opaque Config.freeAck : Nat → Answer

/-- FREE VALUE (R39, I1): what `BUF[i]` holds at reset. Log 3. Errs (D16): the draws err toward unprovable. -/
opaque Config.resetByte : Nat → Byte

/-- FREE VALUE (R39, I1): what `CONTRAST` holds at reset. Log 3. Errs (D16): unprovable. -/
opaque Config.resetContrast : BitVec 3

/-- FREE VALUE (R11, D15, OPEN): `CONTRAST_DEFAULT` of the configuration that `State.reset` is built with.
Log 2. Errs (D15): exact, claims name the parameter or range over it. -/
opaque Config.openContrastDefault : BitVec 3

/-- DESIGN CHOICE (log 1): the font table of 95_test_vectors.md §0, `FONT_LEN = 25`. It is the spec's test data. -/
def Config.vectorFont : Memory :=
  [0x30, 0x3F, 0x31, 0x06, 0x32, 0x5B, 0x33, 0x4F, 0x34, 0x66] ++
  [0x35, 0x6D, 0x36, 0x7D, 0x37, 0x07, 0x38, 0x7F, 0x39, 0x6F] ++
  [0x2D, 0xC0, 0x31, 0x30, 0x41]

/-- DESIGN CHOICE (log 1): the configuration of `State.reset`, the common setup of 95_test_vectors.md §0, with the
default contrast left open (log 2). Claims range over every configuration. -/
def Config.default : Config where
  digits := 4
  clkPin := 2
  dioPin := 3
  font := Config.vectorFont
  tAck := 500
  tSettle := 2
  contrastDefault := Config.openContrastDefault

end Sys2Proof
end

