-- ==== Sys2Proof/Syntax.lean ====
section
/-! DEFINITION. The instructions: one constructor per row of spec/opcode_table.json (30_encoding.md R92, R102), and the
two shapes in which they are presented to the engine. -/

namespace Sys2Proof

/-- One host request (R92), or one bus command byte (R102). Operands keep the spec's names (R91). -/
inductive Instr where
  /-- `SEGSET index, mask` (R141). -/
  | segset (index mask : Byte)
  /-- `RADIXON index` (R142). -/
  | radixon (index : Byte)
  /-- `RADIXOFF index` (R143). -/
  | radixoff (index : Byte)
  /-- `RADIXTGL index` (R144). -/
  | radixtgl (index : Byte)
  /-- `FILL mask, start, stop` (R145). -/
  | fill (mask start stop : Byte)
  /-- `CLEAR` (R147). -/
  | clear
  /-- `FILLALL` (R148). -/
  | fillall
  /-- `GETCUR` (R150). -/
  | getcur
  /-- `SETCUR index` (R151). -/
  | setcur (index : Byte)
  /-- `PUTC code` (R152). -/
  | putc (code : Byte)
  /-- `PUTS` (R158): the length `n` and the `STR` operand (R64). -/
  | puts (n : Byte) (str : Memory)
  /-- `LOOKUP code` (R131). -/
  | lookup (code : Byte)
  /-- `SENDCMD cmd` (R188). -/
  | sendcmd (cmd : Byte)
  /-- `SENDCMDB cmd, data` (R189). -/
  | sendcmdb (cmd data : Byte)
  /-- `SENDBUF cmd, count` (R190), with the `REORDER` operand (R63) where `r = 1`. -/
  | sendbuf (cmd count : Byte) (reorder : Option Memory)
  /-- `INIT` (R221). -/
  | init
  /-- `COMMIT` (R230), with the `REORDER` operand where `r = 1`. -/
  | commit (reorder : Option Memory)
  /-- `PWRON` (R225). -/
  | pwron
  /-- `PWROFF` (R226). -/
  | pwroff
  /-- `TOGGLE` (R227). -/
  | toggle
  /-- `SETCONTRAST level` (R229). -/
  | setcontrast (level : Byte)
  /-- The data command byte (R103): bits 5:4, bit 3 `test`, bit 2 `fixed` addressing, bits 1:0 read/write. -/
  | busDataCmd (reserved : BitVec 2) (test fixed : Bool) (rw : BitVec 2)
  /-- The display-control command byte (R105): bits 5:4, bit 3 `on`, bits 2:0 contrast. -/
  | busDisplayCtrl (reserved : BitVec 2) (on : Bool) (contrast : BitVec 3)
  /-- The address command byte (R104): bits 5:4, bits 3:0 the digit address. -/
  | busAddress (reserved : BitVec 2) (addr : BitVec 4)
  deriving DecidableEq, Repr

/-- What is presented to the engine next. A host program holds `request` items only; a `busCommand` item is a
command byte presented at the bus level of R19 (DESIGN CHOICE, log 8). -/
inductive PortItem where
  /-- One request word and the bytes of its `REORDER` or `STR` operand (R65, R90), empty where it uses none. Bytes
  presented all the same with a request that uses none are dropped (DESIGN CHOICE, log 18). -/
  | request (word : Word) (operand : Memory)
  /-- One bus command byte (R102). -/
  | busCommand (byte : Byte)
  deriving DecidableEq, Repr

end Sys2Proof
end

