-- ==== Sys2Proof/WellFormed.lean ====
section
/-! DEFINITION. What the host must supply with a request: operands of the length the spec gives them (R12, R60, R63,
R64). All other operand values are accepted (R91); out-of-range values are the meanings' business. -/

namespace Sys2Proof

/-- A reorder table has `DIGITS` entries (R63, R96); a request without one is fine. -/
def reorderShape (digits : Nat) : Option Memory → Bool
  | none => true
  | some table => table.length == digits

/-- The operand shapes, for a configuration of `digits` digits. -/
def Instr.wellFormed (digits : Nat) : Instr → Bool
  | .puts n str => str.length == n.toNat
  | .sendbuf _ _ reorder => reorderShape digits reorder
  | .commit reorder => reorderShape digits reorder
  | .segset _ _ => true
  | .radixon _ => true
  | .radixoff _ => true
  | .radixtgl _ => true
  | .fill _ _ _ => true
  | .clear => true
  | .fillall => true
  | .getcur => true
  | .setcur _ => true
  | .putc _ => true
  | .lookup _ => true
  | .sendcmd _ => true
  | .sendcmdb _ _ => true
  | .init => true
  | .pwron => true
  | .pwroff => true
  | .toggle => true
  | .setcontrast _ => true
  | .busDataCmd _ _ _ _ => true
  | .busDisplayCtrl _ _ _ => true
  | .busAddress _ _ => true

end Sys2Proof
end

