-- ==== Sys2Proof/Decode.lean ====
section
/-! DEFINITION. Decoding (30_encoding.md R90 to R95, R102 to R106) and encoding (R96). -/

namespace Sys2Proof

/-- Why a port item is no instruction. -/
inductive DecodeError where
  /-- An OP that R92 does not list (R94). -/
  | undefinedOpcode (op : Byte)
  /-- A byte whose bits 7:6 are `00`, which is no command family (R102). -/
  | noCommandFamily (byte : Byte)
  deriving DecidableEq, Repr

/-- `OP = w[31:24]` (R95). -/
def opField (w : Word) : Byte := w.extractLsb' 24 8

/-- `A = w[23:16]` (R95). -/
def aField (w : Word) : Byte := w.extractLsb' 16 8

/-- `B = w[15:8]` (R95). -/
def bField (w : Word) : Byte := w.extractLsb' 8 8

/-- `C = w[7:0]` (R95). -/
def cField (w : Word) : Byte := w.extractLsb' 0 8

/-- `r = w[0]` (R95). -/
def rFlag (w : Word) : Bool := w.getLsbD 0

/-- The `REORDER` operand, there when `r = 1` (R90); with `r = 0` stray bytes are dropped (DESIGN CHOICE, log 18).
Bits `C[7:1]` are ignored (R93).
Errs (D4): proving, if real hardware rejected non-zero unused bits. -/
def reorderOperand (w : Word) (operand : Memory) : Option Memory :=
  if rFlag w then some operand else none

/-- The opcode map of R92. Total on all 2^32 words (R95); every other OP is undefined (R94).
DESIGN CHOICE (log 18, unsafe): operand bytes presented with a request that uses none are dropped, and the request runs.
Errs (D5): unprovable, a claim must assume no fault. -/
def decodeRequest (w : Word) (operand : Memory) : Except DecodeError Instr :=
  match (opField w).toNat with
  | 0x01 => .ok (.segset (aField w) (bField w))
  | 0x02 => .ok (.radixon (aField w))
  | 0x03 => .ok (.radixoff (aField w))
  | 0x04 => .ok (.radixtgl (aField w))
  | 0x05 => .ok (.fill (aField w) (bField w) (cField w))
  | 0x06 => .ok .clear
  | 0x07 => .ok .fillall
  | 0x08 => .ok .getcur
  | 0x09 => .ok (.setcur (aField w))
  | 0x0A => .ok (.putc (aField w))
  | 0x0B => .ok (.puts (aField w) operand)
  | 0x10 => .ok (.lookup (aField w))
  | 0x20 => .ok (.sendcmd (aField w))
  | 0x21 => .ok (.sendcmdb (aField w) (bField w))
  | 0x22 => .ok (.sendbuf (aField w) (bField w) (reorderOperand w operand))
  | 0x30 => .ok .init
  | 0x31 => .ok (.commit (reorderOperand w operand))
  | 0x32 => .ok .pwron
  | 0x33 => .ok .pwroff
  | 0x34 => .ok .toggle
  | 0x35 => .ok (.setcontrast (aField w))
  | _ => .error (.undefinedOpcode (opField w))

/-- The command families, told apart by bits 7:6 (R102). Sub-field values that are reserved at the receiver (R106)
belong to their family: the engine does not check them (R107). -/
def decodeBusCommand (b : Byte) : Except DecodeError Instr :=
  match (b.extractLsb' 6 2).toNat with
  | 1 => .ok (.busDataCmd (b.extractLsb' 4 2) (b.getLsbD 3) (b.getLsbD 2) (b.extractLsb' 0 2))
  | 2 => .ok (.busDisplayCtrl (b.extractLsb' 4 2) (b.getLsbD 3) (b.extractLsb' 0 3))
  | 3 => .ok (.busAddress (b.extractLsb' 4 2) (b.extractLsb' 0 4))
  | _ => .error (.noCommandFamily b)

/-- Decoding of what is presented to the engine. -/
def decode : PortItem → Except DecodeError Instr
  | .request word operand => decodeRequest word operand
  | .busCommand byte => decodeBusCommand byte

/-- `w = {OP, A, B, C}` (R90, R96). Errs (D2): exact at the operation level, only the spelling depends on it. -/
def packWord (op a b c : Byte) : Word := op ++ a ++ b ++ c

/-- Operand C of `SENDBUF` and `COMMIT`: the reorder flag in bit 0, the rest zero (R90, R93). -/
def reorderFlagByte (reorder : Option Memory) : Byte := if reorder.isSome then 1 else 0

/-- The data command byte (R103): base 0x40 with its sub-fields. -/
def dataCommandByte (reserved : BitVec 2) (test fixed : Bool) (rw : BitVec 2) : Byte :=
  0b01#2 ++ reserved ++ BitVec.ofBool test ++ BitVec.ofBool fixed ++ rw

/-- The display-control command byte (R105): base 0x80 with its sub-fields. -/
def displayCommandByte (reserved : BitVec 2) (on : Bool) (contrast : BitVec 3) : Byte :=
  0b10#2 ++ reserved ++ BitVec.ofBool on ++ contrast

/-- The address command byte (R104): base 0xC0 with the digit address in the low nibble. -/
def addressCommandByte (reserved : BitVec 2) (addr : BitVec 4) : Byte :=
  0b11#2 ++ reserved ++ addr

/-- The encoder: unused fields are written as zero (R93, R96). -/
def encode : Instr → PortItem
  | .segset index mask => .request (packWord 0x01 index mask 0) []
  | .radixon index => .request (packWord 0x02 index 0 0) []
  | .radixoff index => .request (packWord 0x03 index 0 0) []
  | .radixtgl index => .request (packWord 0x04 index 0 0) []
  | .fill mask start stop => .request (packWord 0x05 mask start stop) []
  | .clear => .request (packWord 0x06 0 0 0) []
  | .fillall => .request (packWord 0x07 0 0 0) []
  | .getcur => .request (packWord 0x08 0 0 0) []
  | .setcur index => .request (packWord 0x09 index 0 0) []
  | .putc code => .request (packWord 0x0A code 0 0) []
  | .puts n str => .request (packWord 0x0B n 0 0) str
  | .lookup code => .request (packWord 0x10 code 0 0) []
  | .sendcmd cmd => .request (packWord 0x20 cmd 0 0) []
  | .sendcmdb cmd data => .request (packWord 0x21 cmd data 0) []
  | .sendbuf cmd count reorder =>
    .request (packWord 0x22 cmd count (reorderFlagByte reorder)) (reorder.getD [])
  | .init => .request (packWord 0x30 0 0 0) []
  | .commit reorder => .request (packWord 0x31 0 0 (reorderFlagByte reorder)) (reorder.getD [])
  | .pwron => .request (packWord 0x32 0 0 0) []
  | .pwroff => .request (packWord 0x33 0 0 0) []
  | .toggle => .request (packWord 0x34 0 0 0) []
  | .setcontrast level => .request (packWord 0x35 level 0 0) []
  | .busDataCmd reserved test fixed rw => .busCommand (dataCommandByte reserved test fixed rw)
  | .busDisplayCtrl reserved on contrast => .busCommand (displayCommandByte reserved on contrast)
  | .busAddress reserved addr => .busCommand (addressCommandByte reserved addr)

/-- The operand bytes a bare table word comes with, all zero, as many as the word's request reads: `n` for `PUTS`,
`DIGITS` where `SENDBUF` or `COMMIT` has `r = 1`. -/
def zeroOperand (digits : Nat) (w : Word) : Memory :=
  match (opField w).toNat with
  | 0x0B => List.replicate (aField w).toNat 0
  | 0x22 => if rFlag w then List.replicate digits 0 else []
  | 0x31 => if rFlag w then List.replicate digits 0 else []
  | _ => []

/-- A word of the opcode table as a port item: the 8-bit rows are bus command bytes, the 32-bit rows request words. -/
def itemOfTableWord (digits nbits w : Nat) : PortItem :=
  if nbits ≤ 8 then .busCommand (BitVec.ofNat 8 w)
  else .request (BitVec.ofNat 32 w) (zeroOperand digits (BitVec.ofNat 32 w))

/-- What the decoder reads from a word numbered as spec/opcode_table.json numbers it. -/
def decodeTableWord (nbits w : Nat) : Option Instr :=
  match decode (itemOfTableWord Config.default.digits nbits w) with
  | .ok i => some i
  | .error _ => none

end Sys2Proof
end

