-- ==== Sys2Proof/Machine/State.lean ====
section
/-! DEFINITION. The engine's state as plain data (10_state.md), its reset (R39, R290), and the reasons a step stops. -/

namespace Sys2Proof.Machine

/-- The three TransmissionResult values (R16, R261). -/
inductive TransmissionResult where
  | success
  | pinConfigurationError
  | acknowledgeTimeoutError
  deriving DecidableEq, Repr

/-- `POWER` (R25). -/
inductive Power where
  | off
  | on
  deriving DecidableEq, Repr

/-- `CTRL` (R28). -/
inductive Ctrl where
  | uninitialized
  | ready
  deriving DecidableEq, Repr

/-- `CLK` (R29). `configured` is mode Output before the first drive, which lasts only from `CFG` to the drive inside
`INIT` (log 12); `driven v` is mode Output at level `v`. -/
inductive ClkLine where
  | unconfigured
  | configured
  | driven (level : Bool)
  deriving DecidableEq, Repr

/-- `DIO` (R30). `released` is mode Input: the level is then the environment's and is no state of the engine.
Errs (D30): unprovable. -/
inductive DioLine where
  | unconfigured
  | configured
  | driven (level : Bool)
  | released
  deriving DecidableEq, Repr

/-- `FSM` (R31). -/
inductive Fsm where
  | idle
  | start
  | byteOut
  | ackWait
  | stop
  deriving DecidableEq, Repr

/-- The bus events of `TRACE` (R36). -/
inductive Event where
  /-- `CFG`: both lines configured as outputs. -/
  | cfg
  /-- `CLK(v)`: the engine drives CLK to `v`. -/
  | clk (v : Bool)
  /-- `DIO(v)`: the engine drives DIO as an output at `v`. -/
  | dio (v : Bool)
  /-- `REL`: the engine releases DIO. -/
  | rel
  /-- `POLL(a)`: the acknowledge poll, with its answer. -/
  | poll (a : Answer)
  deriving DecidableEq, Repr

/-- The five model faults (R262 to R266), as `FAULT` records them (R33). -/
inductive EngineFault where
  | illegalRequest (op : Byte)
  | notReady (op : Byte)
  | badCount (count : Byte)
  | badReorder (i : Nat)
  | configInvalid
  deriving DecidableEq, Repr

/-- The whole state. There are no debug registers (errs (D31): exact if none exist), and no request reads a status
register back but `GETCUR` (errs (D26): unprovable). -/
structure State where
  /-- The configuration (R34), written by no request. Carried here so that claims range over it (log 1). -/
  cfg : Config
  /-- `BUF` (R21): `DIGITS` bytes, bits 6..0 segments G..A, bit 7 radix. -/
  buf : Memory
  /-- `CURSOR` (R23). -/
  cursor : BitVec 3
  /-- `CONTRAST` (R24). -/
  contrast : BitVec 3
  /-- `POWER` (R25). -/
  power : Power
  /-- `LASTCMD` (R26). -/
  lastCmd : Option Byte
  /-- `LASTRESULT` (R27). -/
  lastResult : Option TransmissionResult
  /-- `CTRL` (R28). -/
  ctrl : Ctrl
  /-- `CLK` (R29). -/
  clk : ClkLine
  /-- `DIO` (R30). -/
  dio : DioLine
  /-- `FSM` (R31). -/
  fsm : Fsm
  /-- `k` (R31), there during ByteOut only (log 11). -/
  bitCounter : Option (BitVec 3)
  /-- The byte being sent (R31), there during ByteOut only (log 11). -/
  txByte : Option Byte
  /-- `fr` (R31, R32), dropped at the response (log 11). -/
  fr : Option TransmissionResult
  /-- `FAULT` (R33). -/
  fault : Option EngineFault
  /-- `TRACE` (R36), oldest event first. -/
  trace : List Event
  /-- The host's requests from the next one on (R20, log 5). One after another, never two at once, with operands that
  stay as they are. Errs: D1 exact for the blocking semantics; D21 and D27 proving, a host that breaks its duty is not
  modelled (log 14). -/
  hostPending : List PortItem
  /-- The index of the next request in the host's sequence (R20). -/
  hostIndex : Nat
  /-- The response words returned so far (R65, R100), oldest first. -/
  responses : List Word
  /-- The receiver's next answers, where a claim names them (R186, log 4). The model's own field. -/
  answers : List Answer
  /-- How many answers have been drawn (log 4). The model's own field. -/
  draws : Nat
  deriving DecidableEq, Repr

/-- Why a step stops for good. -/
inductive Fault where
  /-- Raised by `step` when `FAULT` is set: "no later request is taken" (R262). Safe. Log 7. -/
  | halted (f : EngineFault)
  /-- Raised by a meaning that would read byte `addr` of an operand or buffer space in which that byte does not
  exist (R60). `step` never gets there from a state of the right shape. Safe. Log 9. -/
  | noSuchByte (addr : Nat)
  deriving DecidableEq, Repr

/-- Why a step has no meaning. -/
inductive Refusal where
  /-- Raised by `exec` for an instruction that is not modelled; no arm uses it. Safe. -/
  | notModelled (mnemonic : String)
  /-- Raised by `step`: the host supplied a `REORDER` or `STR` operand of another length than the request's
  (R63, R64). Safe. Log 9. -/
  | operandShape
  /-- Raised by `step`: a bus-level item whose byte is in no command family (R102). Safe. Log 8. -/
  | noCommandFamily (byte : Byte)
  deriving DecidableEq, Repr

/-- Construction of the engine with a configuration (R39, R290). A configuration outside R6 records `ConfigInvalid`
(R266; errs (D32): unprovable). Reset values, errs (D16): the draws toward unprovable; `CURSOR` 0 before `INIT` both
ways for programs that write glyphs before `INIT`. -/
def State.construct (cfg : Config) : State where
  cfg := cfg
  buf := (List.range cfg.digits).map Config.resetByte
  cursor := 0
  contrast := Config.resetContrast
  power := .off
  lastCmd := none
  lastResult := none
  ctrl := .uninitialized
  clk := .unconfigured
  dio := .unconfigured
  fsm := .idle
  bitCounter := none
  txByte := none
  fr := none
  fault := if cfg.valid then none else some .configInvalid
  trace := []
  hostPending := []
  hostIndex := 0
  responses := []
  answers := []
  draws := 0

/-- The machine right after reset, with the default configuration (log 1). -/
def State.reset : State := State.construct Config.default

end Sys2Proof.Machine
end

