-- ==== Sys2Proof/Machine/Ops.lean ====
section
/-! DEFINITION. The named operations over spaces, registers, bus lines and the host port, and raising a model fault
(60_exceptions.md R262). There is no return from one: the faulted state is final (R269, R270). -/

namespace Sys2Proof.Machine

/-- `MemRead(space, addr, 1)` (R14): nothing where the address does not exist. No side effect (R70). -/
def Memory.read (m : Memory) (addr : Nat) : Option Byte := m[addr]?

/-- A read-modify-write of one byte of a space (R14); an address that does not exist is no byte to write. -/
def Memory.update (m : Memory) (addr : Nat) (f : Byte → Byte) : Memory := m.modify addr f

/-- The form of a space of a given size (log 10): it holds exactly that many bytes. -/
abbrev Memory.wf (size : Nat) (m : Memory) : Prop := m.length = size

/-- A digit index is in bounds iff it is below `DIGITS` (R61, R140). -/
abbrev inBounds (i : Nat) (s : State) : Prop := i < s.cfg.digits

/-- `BUF[i] <- f(BUF[i])` for an index in bounds; an index out of bounds does nothing to `BUF` (R140). -/
def updateDigit (i : Nat) (f : Byte → Byte) (s : State) : State :=
  { s with buf := if inBounds i s then Memory.update s.buf i f else s.buf }

/-- `BUF[i] <- 0x00` for every `i` (R222): segments and radix bits. -/
def clearWholeBuffer (s : State) : State := { s with buf := List.replicate s.cfg.digits 0x00#8 }

/-- `CURSOR <- n` (R23), a register of 3 bits, which hold 0..DIGITS in every valid configuration (log 17). -/
def setCursor (n : Nat) (s : State) : State := { s with cursor := BitVec.ofNat 3 n }

/-- `CONTRAST <- c` (R24). -/
def setContrastReg (c : BitVec 3) (s : State) : State := { s with contrast := c }

/-- `CTRL <- c` (R28). -/
def setCtrl (c : Ctrl) (s : State) : State := { s with ctrl := c }

/-- `LASTCMD <- cmd` (R26, R184). Errs (D24): both ways for claims over LASTCMD and LASTRESULT only. -/
def setLastCmd (cmd : Byte) (s : State) : State := { s with lastCmd := some cmd }

/-- `FSM <- f` (R31). -/
def setFsm (f : Fsm) (s : State) : State := { s with fsm := f }

/-- `fr <- r` (R31, R184). -/
def setFrameResult (r : TransmissionResult) (s : State) : State := { s with fr := some r }

/-- What a bus event does to CLK (R29, R36). `CFG` makes it an output and keeps a level that is already driven. -/
def ClkLine.after (l : ClkLine) : Event → ClkLine
  | .cfg => match l with
    | .unconfigured => .configured
    | .configured => .configured
    | .driven v => .driven v
  | .clk v => .driven v
  | .dio _ => l
  | .rel => l
  | .poll _ => l

/-- What a bus event does to DIO (R30, R36). -/
def DioLine.after (l : DioLine) : Event → DioLine
  | .cfg => match l with
    | .unconfigured => .configured
    | .configured => .configured
    | .driven v => .driven v
    | .released => .configured
  | .dio v => .driven v
  | .rel => .released
  | .clk _ => l
  | .poll _ => l

/-- `emit` of several bus events in order (R14, R36): `TRACE` gains them and the lines take their effect.
Every drive is an event (errs (D29): exact for line levels). `T_SETTLE` waits are no events (R299). -/
def emits (es : List Event) (s : State) : State :=
  { s with
    trace := s.trace ++ es
    clk := es.foldl ClkLine.after s.clk
    dio := es.foldl DioLine.after s.dio }

/-- `draw ack` (R186): the next named answer, or the free answer where none is named (log 4). Both answers are admitted
at every AckWait. Errs (D10): unprovable, claims hold for every answer sequence. -/
def drawAck (s : State) : State × Answer :=
  match s.answers with
  | a :: rest => ({ s with answers := rest, draws := s.draws + 1 }, a)
  | [] => ({ s with draws := s.draws + 1 }, Config.freeAck s.draws)

/-- `raise <Fault>(info)` (R14, R262): `FAULT` is set, no response is returned, nothing else changes and no event is
emitted. Errs (D34): unprovable, where some run reaches the fault. -/
def raise (f : EngineFault) (s : State) : State := { s with fault := some f }

/-- What the host has presented next (R20, R65), if anything. -/
def fetchItem (s : State) : Option PortItem := s.hostPending.head?

/-- The host waits for no one and the engine waits for the next request (R291): nothing changes. -/
def waitForRequest (s : State) : State := s

/-- A port item that is no instruction: an undefined OP raises `IllegalRequest(OP)` (R94, R263). -/
def undecodable (e : DecodeError) (s : State) : Host.Outcome State Fault Refusal :=
  match e with
  | .undefinedOpcode op => .next (raise (.illegalRequest op) s)
  | .noCommandFamily byte => .refused (.noCommandFamily byte)

/-- A port item put where the next fetch finds it, on an engine that takes requests. No move of the machine (log 5). -/
def presentItem (item : PortItem) (s : State) : State :=
  { s with hostPending := item :: s.hostPending.drop 1, fault := none }

end Sys2Proof.Machine
end

