-- ==== Sys2Proof/Machine/Flags.lean ====
section
/-! DEFINITION. Results and the two flag-like elements (10_state.md R37): `POWER` and the result code of a response
(30_encoding.md R100, R101), with `LASTRESULT` (R27) and the end of a request. -/

namespace Sys2Proof.Machine

/-- The result codes of R101. Errs (D6): exact at the operation level, the numbers are spelling. -/
def TransmissionResult.code : TransmissionResult → Byte
  | .success => 0
  | .pinConfigurationError => 1
  | .acknowledgeTimeoutError => 2

/-- The result an acknowledge answer stands for (R182, R184). -/
def resultOfAnswer : Answer → TransmissionResult
  | .ack => .success
  | .nak => .acknowledgeTimeoutError

/-- `firstFail(r1, r2)` (R16). -/
def firstFail (r1 r2 : TransmissionResult) : TransmissionResult :=
  if r1 = .success then r2 else r1

/-- The value of `fr` (R31); `Success` is what a frame starts it at (R184). -/
def frameResult (s : State) : TransmissionResult := s.fr.getD .success

/-- `if fr = Success: POWER <- p` (R25, R225, R226): not updated on failure. -/
def setPowerOnSuccess (p : Power) (r : TransmissionResult) (s : State) : State :=
  { s with power := if r = .success then p else s.power }

/-- `LASTRESULT <- r` (R27). -/
def recordResult (r : TransmissionResult) (s : State) : State := { s with lastResult := some r }

/-- The response word (R100): `CODE` in 31:24, zeros in 23:8, `DATA` in 7:0. -/
def responseWord (r : TransmissionResult) (data : Byte) : Word := r.code ++ 0x0000#16 ++ data

/-- `return (code, data)` at the end of a request (R14, R100): the response goes to the host, `fr` is dropped (R32), and
the host's index moves to the next request (R20). -/
def respond (r : TransmissionResult) (data : Byte) (s : State) : State :=
  { s with
    fr := none
    responses := s.responses ++ [responseWord r data]
    hostIndex := s.hostIndex + 1
    hostPending := s.hostPending.drop 1 }

/-- `LASTRESULT <- r; return (r, 0)`, how every request that returns a TransmissionResult ends (R27, R100). -/
def respondResult (r : TransmissionResult) (s : State) : State := respond r 0 (recordResult r s)

/-- The end of a bus-level item (log 8): its frame's `fr` is dropped (R32). It is no host request, so there is no
response, no `LASTRESULT` and no step of the host's index. -/
def finishBusCommand (s : State) : State :=
  { s with fr := none, hostPending := s.hostPending.drop 1 }

/-- The gate of a bus request (R220, R264): `NotReady(OP)` before any effect while `CTRL = Uninitialized`.
Errs (D7): unprovable, programs that send before `INIT` get no meaning. -/
def requireReady (op : Byte) (s : State) (body : Host.Outcome State Fault Refusal) :
    Host.Outcome State Fault Refusal :=
  match s.ctrl with
  | .ready => body
  | .uninitialized => .next (raise (.notReady op) s)

end Sys2Proof.Machine
end

