-- ==== Sys2Proof/Machine/Operands.lean ====
section
/-! DEFINITION. Operand forms: byte operands used as indices (R91), masks (R141 to R144), range normalisation (R145), the
contrast clamp (R229), and the bytes a `SENDBUF` or `COMMIT` sends, with or without a reorder table (R63, R190). -/

namespace Sys2Proof.Machine

/-- `(b & 0x80) | (mask & 0x7F)`: the segments of `mask` with the radix bit of `b` (R141, R22). -/
def withSegments (mask b : Byte) : Byte := (b &&& 0x80#8) ||| (mask &&& 0x7F#8)

/-- `b | 0x80` (R142). -/
def radixSet (b : Byte) : Byte := b ||| 0x80#8

/-- `b & 0x7F` (R143). -/
def radixClear (b : Byte) : Byte := b &&& 0x7F#8

/-- `b ^ 0x80` (R144). -/
def radixFlip (b : Byte) : Byte := b ^^^ 0x80#8

/-- The swap of R145, before the clamp (R146). -/
def orderedRange (start stop : Nat) : Nat × Nat := if start > stop then (stop, start) else (start, stop)

/-- `min(level, 7)` in the 3 bits of `CONTRAST` (R229). Errs (D33): unprovable for a `SETCONTRAST` before `INIT`. -/
def clampLevel (level : Byte) : BitVec 3 := BitVec.ofNat 3 (min level.toNat 7)

/-- The radix punctuation marks `.`, `,` and `:` (R155), in ASCII. Errs (D19): both ways if another code set is used. -/
def isPunctuation (code : Byte) : Bool := code = 0x2E#8 || code = 0x2C#8 || code = 0x3A#8

/-- `dispCtrl(on) = 0x80 | (on << 3) | CONTRAST` (R228, R105). -/
def dispCtrl (on : Bool) (contrast : BitVec 3) : Byte :=
  0x80#8 ||| (if on then 0x08#8 else 0x00#8) ||| contrast.setWidth 8

/-- The bytes to send, or why there are none. -/
inductive Gathered where
  | bytes (data : List Byte)
  | badReorder (i : Nat)
  | noSuchByte (addr : Nat)
  deriving DecidableEq, Repr

/-- One more byte in front of the bytes that follow it. -/
def Gathered.cons (b : Byte) : Gathered → Gathered
  | .bytes data => .bytes (b :: data)
  | .badReorder i => .badReorder i
  | .noSuchByte a => .noSuchByte a

/-- `BUF[src]` in front of what follows. -/
def gatherByte (buf : Memory) (src : Nat) (rest : Gathered) : Gathered :=
  match Memory.read buf src with
  | some b => rest.cons b
  | none => .noSuchByte src

/-- `BUF[i], BUF[i+1], ...`, `n` bytes: `src(i) = i` (R190, R67). -/
def gatherPlain (buf : Memory) : (n i : Nat) → Gathered
  | 0, _ => .bytes []
  | n + 1, i => gatherByte buf i (gatherPlain buf n (i + 1))

/-- The requirement on the reorder entries that are read, at the least failing index (R265, R267), and an entry the
host did not supply. `none` when all `n` entries from `i` on are below `DIGITS`. Errs (D22): unprovable. -/
def reorderProblem (digits : Nat) (table : Memory) : (n i : Nat) → Option Gathered
  | 0, _ => none
  | n + 1, i =>
    match Memory.read table i with
    | none => some (.noSuchByte i)
    | some entry => if entry.toNat < digits then reorderProblem digits table n (i + 1) else some (.badReorder i)

/-- `BUF[REORDER[i]], BUF[REORDER[i+1]], ...`, `n` bytes: the gather of 90_conflicts.md C1 (R63, R190). -/
def gatherReordered (buf table : Memory) : (n i : Nat) → Gathered
  | 0, _ => .bytes []
  | n + 1, i =>
    match Memory.read table i with
    | none => .noSuchByte i
    | some entry => gatherByte buf entry.toNat (gatherReordered buf table n (i + 1))

/-- The data bytes of `SENDBUF` and `COMMIT`: `count` buffer bytes, in order or through the reorder table, all entries
checked before any byte is read (R190, R230). -/
def gather (s : State) (reorder : Option Memory) (count : Nat) : Gathered :=
  match reorder with
  | none => gatherPlain s.buf count 0
  | some table =>
    match reorderProblem s.cfg.digits table count 0 with
    | some problem => problem
    | none => gatherReordered s.buf table count 0

/-- What follows the gathering: the request goes on with the bytes, or ends before any effect (R267). -/
def withGathered (g : Gathered) (s : State) (send : List Byte → State) : Host.Outcome State Fault Refusal :=
  match g with
  | .bytes data => .next (send data)
  | .badReorder i => .next (raise (.badReorder i) s)
  | .noSuchByte addr => .fault (.noSuchByte addr)

end Sys2Proof.Machine
end

