-- ==== Sys2Proof/Machine/Bus.lean ====
section
/-! DEFINITION. The bus primitives and the frame (42_protocol.md R180 to R184). -/

namespace Sys2Proof.Machine

/-- Start (R180). -/
def startFrame (s : State) : State :=
  emits [.dio true, .clk true, .dio false] (setFsm .start s)

/-- Bit `k` of ByteOut (R181): the data bit, then one clock pulse.
Errs (D8): both ways at the bus level if the real order differs. -/
def bitOut (b : Byte) (s : State) (k : Nat) : State :=
  emits [.dio (b.getLsbD k), .clk true, .clk false] { s with bitCounter := some (BitVec.ofNat 3 k) }

/-- ByteOut (R181): the clock low, then bits 0 to 7. -/
def byteOut (b : Byte) (s : State) : State :=
  let s1 := emits [.clk false] { setFsm .byteOut s with txByte := some b }
  let s2 := [0, 1, 2, 3, 4, 5, 6, 7].foldl (bitOut b) s1
  { s2 with bitCounter := none, txByte := none }

/-- AckWait (R182): release, clock high, poll, clock low. Errs (D9): both ways at the bus level only. -/
def ackWait (s : State) : State × Answer :=
  let drawn := drawAck (emits [.rel, .clk true] (setFsm .ackWait s))
  (emits [.poll drawn.2, .clk false] drawn.1, drawn.2)

/-- Stop (R183): both lines back to idle-high. -/
def stopFrame (s : State) : State :=
  setFsm .idle (emits [.clk false, .dio false, .clk true, .dio true] (setFsm .stop s))

/-- One byte and its acknowledge: a `nak` sets `fr` (R184). -/
def sendByte (b : Byte) (s : State) : State :=
  let acked := ackWait (byteOut b s)
  match acked.2 with
  | .ack => acked.1
  | .nak => setFrameResult .acknowledgeTimeoutError acked.1

/-- The byte loop of a frame, which stops after the first byte that is not acknowledged (R184, R193). -/
def sendBytes : List Byte → State → State
  | [], s => s
  | b :: rest, s =>
    let sent := sendByte b s
    match frameResult sent with
    | .success => sendBytes rest sent
    | .pinConfigurationError => sent
    | .acknowledgeTimeoutError => sent

/-- `frame(cmd, data)` (R184): the command byte and the data bytes between one Start and one Stop (90_conflicts.md C2).
Its result is `frameResult` of the state it leaves. -/
def frame (cmd : Byte) (data : List Byte) (s : State) : State :=
  stopFrame (sendBytes (cmd :: data) (startFrame (setFrameResult .success (setLastCmd cmd s))))

end Sys2Proof.Machine
end

