-- ==== Sys2Proof/Machine/BusCommand.lean ====
section
/-! DEFINITION. The three bus command families (30_encoding.md R102 to R105) as instructions: the effect the spec gives a
command byte at the engine is to be sent, unchecked, as the command of a frame (R107, R184, I4). What the receiver
does with it is out of scope (R4). DESIGN CHOICE, log 8. -/

namespace Sys2Proof.Machine

/-- A command byte in a frame of its own (R184). The gate is that of every bus traffic (R264): the source defines none on
unconfigured lines; the byte stands for the OP it does not have. -/
def sendBusCommand (cmd : Byte) (s : State) : Host.Outcome State Fault Refusal :=
  requireReady cmd s (.next (finishBusCommand (frame cmd [] s)))

/-- `BUS_DATA_CMD` (R103). -/
def execBusDataCmd (reserved : BitVec 2) (test fixed : Bool) (rw : BitVec 2) (s : State) :
    Host.Outcome State Fault Refusal :=
  sendBusCommand (dataCommandByte reserved test fixed rw) s

/-- `BUS_DISPLAY_CTRL` (R105). `POWER` and `CONTRAST` do not follow it (R188). -/
def execBusDisplayCtrl (reserved : BitVec 2) (on : Bool) (contrast : BitVec 3) (s : State) :
    Host.Outcome State Fault Refusal :=
  sendBusCommand (displayCommandByte reserved on contrast) s

/-- `BUS_ADDRESS` (R104). -/
def execBusAddress (reserved : BitVec 2) (addr : BitVec 4) (s : State) : Host.Outcome State Fault Refusal :=
  sendBusCommand (addressCommandByte reserved addr) s

end Sys2Proof.Machine
end

