-- ==== Sys2Proof/Machine/Controller.lean ====
section
/-! DEFINITION. The DisplayController family (43_controller.md). -/

namespace Sys2Proof.Machine

/-- The display-control frame with the stored contrast, and `POWER` on success (R225, R226, R228). -/
def switchDisplay (on : Bool) (s : State) : State :=
  let sent := frame (dispCtrl on s.contrast) [] s
  setPowerOnSuccess (if on then .on else .off) (frameResult sent) sent

/-- The body of `PWRON` (R225) and of `PWROFF` (R226): the frame, `POWER`, `LASTRESULT`, the response. -/
def powerRequest (on : Bool) (s : State) : State :=
  let switched := switchDisplay on s
  respondResult (frameResult switched) switched

/-- `PWRON` (R225). -/
def execPwron (s : State) : Host.Outcome State Fault Refusal :=
  requireReady 0x32#8 s (.next (powerRequest true s))

/-- `PWROFF` (R226). -/
def execPwroff (s : State) : Host.Outcome State Fault Refusal :=
  requireReady 0x33#8 s (.next (powerRequest false s))

/-- `TOGGLE` (R227) decides from the cached `POWER`. Errs (D37): exact if the hardware also uses the cached flag. -/
def execToggle (s : State) : Host.Outcome State Fault Refusal :=
  requireReady 0x34#8 s (.next (powerRequest (decide (s.power = .off)) s))

/-- `SETCONTRAST` (R229): the clamped level is stored first and stays even when the frame fails (R71). -/
def execSetcontrast (level : Byte) (s : State) : Host.Outcome State Fault Refusal :=
  requireReady 0x35#8 s (.next (powerRequest true (setContrastReg (clampLevel level) s)))

/-- What `INIT` sets up before its frame (R222): `CFG`, both lines driven high, `BUF` cleared, `CURSOR` 0, the default
contrast. Errs: D11 bus level only, both ways; D12 both ways; D13 both ways at the bus level. -/
def initSetup (s : State) : State :=
  setContrastReg s.cfg.contrastDefault (setCursor 0 (clearWholeBuffer (emits [.cfg, .dio true, .clk true] s)))

/-- `if fr = Success: CTRL <- Ready` (R224). Errs (D14): unprovable for an `INIT` that got a `nak`. -/
def readyOnSuccess (r : TransmissionResult) (s : State) : State :=
  match r with
  | .success => setCtrl .ready s
  | .pinConfigurationError => s
  | .acknowledgeTimeoutError => s

/-- `INIT` past its pin check (R221). -/
def initialise (s : State) : State :=
  let switched := switchDisplay true (initSetup s)
  respondResult (frameResult switched) (readyOnSuccess (frameResult switched) switched)

/-- `INIT` (R221): the pin check first; where it fails nothing but `LASTRESULT` changes. Legal in every `CTRL` state. -/
def execInit (s : State) : Host.Outcome State Fault Refusal :=
  if s.cfg.clkPin = s.cfg.dioPin then .next (respondResult .pinConfigurationError s)
  else .next (initialise s)

/-- The two frames of `COMMIT` (R230): the data command 0x40, then 0xC0 with the data. The second is sent even when the
first got a `nak` (errs (D23): both ways at the bus level; (D36): both ways if the commit byte differs). -/
def commitFrames (data : List Byte) (s : State) : State :=
  let sent1 := frame 0x40#8 [] s
  let sent2 := frame 0xC0#8 data sent1
  respondResult (firstFail (frameResult sent1) (frameResult sent2)) sent2

/-- `COMMIT` (R230): all `DIGITS` buffer bytes. `BUF` is only read (R231). -/
def execCommit (reorder : Option Memory) (s : State) : Host.Outcome State Fault Refusal :=
  requireReady 0x31#8 s
    (withGathered (gather s reorder s.cfg.digits) s (fun data => commitFrames data s))

end Sys2Proof.Machine
end

