-- ==== Sys2Proof/Machine/Font.lean ====
section
/-! DEFINITION. The FontTable family (40_font.md). -/

namespace Sys2Proof.Machine

/-- `lookup(code)` (R130): the mask of the first entry whose code matches, bit 7 forced to 0 (R132). A trailing odd byte
belongs to no entry (R133). -/
def lookup (code : Byte) : Memory → Option Byte
  | entryCode :: mask :: rest => if entryCode = code then some (mask &&& 0x7F#8) else lookup code rest
  | [_] => none
  | [] => none

/-- What `LOOKUP` returns: the mask, or the sentinel 0xFF (R134). Errs (D20): exact for the decision found/unknown. -/
def lookupData (found : Option Byte) : Byte := found.getD 0xFF#8

/-- `LOOKUP` (R131). -/
def execLookup (code : Byte) (s : State) : Host.Outcome State Fault Refusal :=
  .next (respond .success (lookupData (lookup code s.cfg.font)) s)

end Sys2Proof.Machine
end

