-- ==== Sys2Proof/Machine/FrameBuffer.lean ====
section
/-! DEFINITION. The FrameBuffer family (41_framebuffer.md). Legal in any `CTRL` state, no bus event (R159). -/

namespace Sys2Proof.Machine

/-- `setSegments(index, mask)` (R141). -/
def setSegments (index : Nat) (mask : Byte) (s : State) : State := updateDigit index (withSegments mask) s

/-- `SEGSET` (R141). -/
def execSegset (index mask : Byte) (s : State) : Host.Outcome State Fault Refusal :=
  .next (respond .success 0 (setSegments index.toNat mask s))

/-- `RADIXON` (R142). -/
def execRadixon (index : Byte) (s : State) : Host.Outcome State Fault Refusal :=
  .next (respond .success 0 (updateDigit index.toNat radixSet s))

/-- `RADIXOFF` (R143). -/
def execRadixoff (index : Byte) (s : State) : Host.Outcome State Fault Refusal :=
  .next (respond .success 0 (updateDigit index.toNat radixClear s))

/-- `RADIXTGL` (R144). -/
def execRadixtgl (index : Byte) (s : State) : Host.Outcome State Fault Refusal :=
  .next (respond .success 0 (updateDigit index.toNat radixFlip s))

/-- `for i in lo .. lo+n-1: setSegments(i, mask)` (R145). -/
def setSegmentsFrom (mask : Byte) : (n lo : Nat) → State → State
  | 0, _, s => s
  | n + 1, lo, s => setSegmentsFrom mask n (lo + 1) (setSegments lo mask s)

/-- `fillSegments(mask, start, stop)` (R145): swap, clamp of the upper bound, fill, and `CURSOR` at the last touched index;
with an empty range nothing is touched. Errs (D17): both ways for this corner only. -/
def fillSegments (mask : Byte) (start stop : Nat) (s : State) : State :=
  let lo := (orderedRange start stop).1
  let hi := min (orderedRange start stop).2 (s.cfg.digits - 1)
  if lo ≤ hi then setCursor hi (setSegmentsFrom mask (hi + 1 - lo) lo s) else s

/-- `FILL` (R145). -/
def execFill (mask start stop : Byte) (s : State) : Host.Outcome State Fault Refusal :=
  .next (respond .success 0 (fillSegments mask start.toNat stop.toNat s))

/-- `CLEAR` (R147): radix bits are kept. -/
def execClear (s : State) : Host.Outcome State Fault Refusal :=
  .next (respond .success 0 (fillSegments 0x00#8 0 (s.cfg.digits - 1) s))

/-- `FILLALL` (R148). -/
def execFillall (s : State) : Host.Outcome State Fault Refusal :=
  .next (respond .success 0 (fillSegments 0x7F#8 0 (s.cfg.digits - 1) s))

/-- `GETCUR` (R150). -/
def execGetcur (s : State) : Host.Outcome State Fault Refusal :=
  .next (respond .success (s.cursor.setWidth 8) s)

/-- `placeCursor(index)` (R151): an index out of bounds is ignored. -/
def placeCursor (index : Nat) (s : State) : State := if inBounds index s then setCursor index s else s

/-- `SETCUR` (R151). -/
def execSetcur (index : Byte) (s : State) : Host.Outcome State Fault Refusal :=
  .next (respond .success 0 (placeCursor index.toNat s))

/-- A character the font resolves (R154): the segments at `CURSOR`, radix kept, and `CURSOR` one on. -/
def writeGlyph (mask : Byte) (s : State) : State :=
  setCursor (s.cursor.toNat + 1) (setSegments s.cursor.toNat mask s)

/-- A character the font does not resolve: punctuation turns on the radix bit of the digit before `CURSOR` (R155), any
other character is dropped (R156). -/
def writeUnresolved (code : Byte) (s : State) : State × Nat :=
  if isPunctuation code ∧ s.cursor.toNat > 0 then (updateDigit (s.cursor.toNat - 1) radixSet s, 1) else (s, 0)

/-- The glyph-writing contract `write(byte) -> count` (R152 to R157). A full buffer takes nothing (R153).
Errs (D18): both ways for claims about the count. -/
def writeChar (code : Byte) (s : State) : State × Nat :=
  if s.cursor.toNat ≥ s.cfg.digits then (s, 0)
  else match lookup code s.cfg.font with
    | some mask => (writeGlyph mask s, 1)
    | none => writeUnresolved code s

/-- `PUTC` (R152). -/
def execPutc (code : Byte) (s : State) : Host.Outcome State Fault Refusal :=
  .next (respond .success (BitVec.ofNat 8 (writeChar code s).2) (writeChar code s).1)

/-- `write(bytes) -> count` (R158): the characters in order, and the sum of their counts. -/
def writeString : List Byte → State → State × Nat
  | [], s => (s, 0)
  | c :: rest, s =>
    let one := writeChar c s
    let more := writeString rest one.1
    (more.1, one.2 + more.2)

/-- `PUTS` (R158): bytes `STR[0..n-1]` (R64). -/
def execPuts (n : Byte) (str : Memory) (s : State) : Host.Outcome State Fault Refusal :=
  if str.length < n.toNat then .fault (.noSuchByte str.length)
  else
    .next (respond .success (BitVec.ofNat 8 (writeString (str.take n.toNat) s).2)
      (writeString (str.take n.toNat) s).1)

end Sys2Proof.Machine
end

