-- ==== Sys2Proof/Machine/Protocol.lean ====
section
/-! DEFINITION. The ProtocolEngine family (42_protocol.md R188 to R190). -/

namespace Sys2Proof.Machine

/-- One frame, its result in `LASTRESULT` and in the response (R188 to R190). -/
def sendFrame (cmd : Byte) (data : List Byte) (s : State) : State :=
  let sent := frame cmd data s
  respondResult (frameResult sent) sent

/-- `SENDCMD` (R188). The command byte is sent as given (R107; errs (D25): exact at the engine). -/
def execSendcmd (cmd : Byte) (s : State) : Host.Outcome State Fault Refusal :=
  requireReady 0x20#8 s (.next (sendFrame cmd [] s))

/-- `SENDCMDB` (R189). -/
def execSendcmdb (cmd data : Byte) (s : State) : Host.Outcome State Fault Refusal :=
  requireReady 0x21#8 s (.next (sendFrame cmd [data] s))

/-- `SENDBUF` (R190): `NotReady`, then `BadCount`, then `BadReorder`, all before any effect (R267).
Errs (D3): unprovable for a host that sends from another buffer. -/
def execSendbuf (cmd count : Byte) (reorder : Option Memory) (s : State) : Host.Outcome State Fault Refusal :=
  requireReady 0x22#8 s
    (if s.cfg.digits < count.toNat then .next (raise (.badCount count) s)
     else withGathered (gather s reorder count.toNat) s (fun data => sendFrame cmd data s))

end Sys2Proof.Machine
end

