-- ==== Sys2Proof/Machine/Dispatch.lean ====
section
/-! DEFINITION. One arm per constructor of Instr. -/

namespace Sys2Proof.Machine

/-- The meaning of each instruction. -/
def exec (i : Instr) (s : State) : Host.Outcome State Fault Refusal :=
  match i with
  | .segset index mask => Sys2Proof.Machine.execSegset index mask s
  | .radixon index => Sys2Proof.Machine.execRadixon index s
  | .radixoff index => Sys2Proof.Machine.execRadixoff index s
  | .radixtgl index => Sys2Proof.Machine.execRadixtgl index s
  | .fill mask start stop => Sys2Proof.Machine.execFill mask start stop s
  | .clear => Sys2Proof.Machine.execClear s
  | .fillall => Sys2Proof.Machine.execFillall s
  | .getcur => Sys2Proof.Machine.execGetcur s
  | .setcur index => Sys2Proof.Machine.execSetcur index s
  | .putc code => Sys2Proof.Machine.execPutc code s
  | .puts n str => Sys2Proof.Machine.execPuts n str s
  | .lookup code => Sys2Proof.Machine.execLookup code s
  | .sendcmd cmd => Sys2Proof.Machine.execSendcmd cmd s
  | .sendcmdb cmd data => Sys2Proof.Machine.execSendcmdb cmd data s
  | .sendbuf cmd count reorder => Sys2Proof.Machine.execSendbuf cmd count reorder s
  | .init => Sys2Proof.Machine.execInit s
  | .commit reorder => Sys2Proof.Machine.execCommit reorder s
  | .pwron => Sys2Proof.Machine.execPwron s
  | .pwroff => Sys2Proof.Machine.execPwroff s
  | .toggle => Sys2Proof.Machine.execToggle s
  | .setcontrast level => Sys2Proof.Machine.execSetcontrast level s
  | .busDataCmd reserved test fixed rw => Sys2Proof.Machine.execBusDataCmd reserved test fixed rw s
  | .busDisplayCtrl reserved on contrast => Sys2Proof.Machine.execBusDisplayCtrl reserved on contrast s
  | .busAddress reserved addr => Sys2Proof.Machine.execBusAddress reserved addr s

end Sys2Proof.Machine
end

