-- ==== Sys2Proof/Machine/Step.lean ====
section
/-! DEFINITION. One step: one whole request (20_memory.md R71, R75; log 13). -/

namespace Sys2Proof.Machine

/-- A faulted engine takes no request (R262). Otherwise the request presented next is decoded and executed; with none, the
engine waits (R291). A request with operands of the wrong length is refused (log 9). -/
def step (s : State) : Host.Outcome State Fault Refusal :=
  match s.fault with
  | some f => .fault (.halted f)
  | none =>
    match fetchItem s with
    | none => .next (waitForRequest s)
    | some item =>
      match decode item with
      | .error e => undecodable e s
      | .ok i => if i.wellFormed s.cfg.digits then exec i s else .refused .operandShape

/-- A word of the opcode table presented as the next request, with zero operand bytes. No move of the machine (log 5). -/
def State.withFetchWord (s : State) (nbits w : Nat) : State :=
  presentItem (itemOfTableWord s.cfg.digits nbits w) s

end Sys2Proof.Machine
end

