-- ==== Sys2Proof/Safety.lean ====
section
/-! DEFINITION. The terms claims use: the invariants between requests (10_state.md R40), the receiver's answers as a
sequence (R186), what a frame carries (R184), and a bus monitor that reads frames off line events without knowing how
the engine makes them (R66, R180, R183). -/

namespace Sys2Proof.Machine

/-- The protocol engine is between requests (R31, R40 a): no frame, no byte and no running result. -/
def State.Quiet (s : State) : Prop :=
  s.fsm = .idle ∧ s.bitCounter = none ∧ s.txByte = none ∧ s.fr = none

/-- Both lines are outputs at 1 (R40 d). -/
def State.LinesIdleHigh (s : State) : Prop := s.clk = .driven true ∧ s.dio = .driven true

/-- Either line has been configured by no `INIT` yet (R39). -/
def State.LinesUnconfigured (s : State) : Prop := s.clk = .unconfigured ∧ s.dio = .unconfigured

/-- The invariants of R40, with the shape of `BUF` (R21), the configuration (R6) and the host's index (R20). -/
structure State.Inv (s : State) : Prop where
  config : s.cfg.valid
  bufShape : Memory.wf s.cfg.digits s.buf
  cursorRange : s.cursor.toNat ≤ s.cfg.digits
  quiet : s.Quiet
  lines : s.LinesIdleHigh ∨ (s.LinesUnconfigured ∧ s.ctrl = .uninitialized)
  oneResponseEach : s.hostIndex = s.responses.length

/-- The receiver's `k`-th answer from now on (R186). -/
def answerAt (s : State) (k : Nat) : Answer :=
  match s.answers[k]? with
  | some a => a
  | none => Config.freeAck (s.draws + k)

/-- Every one of the next `n` answers is `ack`. -/
def allAck (s : State) (n : Nat) : Prop := ∀ k, k < n → answerAt s k = .ack

/-- What one frame carries of `bytes` when the answers are `ans 0, ans 1, ...`: each byte with its answer, up to and
including the first that is not acknowledged (R184). -/
def transcript (ans : Nat → Answer) : List Byte → List (Byte × Answer)
  | [] => []
  | b :: rest =>
    match ans 0 with
    | .ack => (b, .ack) :: transcript (fun k => ans (k + 1)) rest
    | .nak => [(b, .nak)]

/-- A frame's result (R191): a timeout iff some AckWait answered `nak`. -/
def resultOf (sent : List (Byte × Answer)) : TransmissionResult :=
  if sent.all (fun x => x.2 = .ack) then .success else .acknowledgeTimeoutError

/-- A reader of the two lines. It knows the line levels the engine drives, samples DIO at each rising clock edge, and
takes a data change while the clock is high for a Start or a Stop. -/
structure Monitor where
  /-- The level of CLK, once driven. -/
  clk : Option Bool
  /-- The level of DIO while the engine drives it. -/
  dio : Option Bool
  /-- The open frame's bytes with their answers; none between frames. -/
  current : Option (List (Byte × Answer))
  /-- The bits sampled since the last byte, first sampled first. -/
  bits : List Bool
  /-- The closed frames, oldest first. -/
  frames : List (List (Byte × Answer))
  deriving DecidableEq, Repr

/-- Before the first event. -/
def Monitor.blank : Monitor := ⟨none, none, none, [], []⟩

/-- The number whose bits are given, least significant first (R66). -/
def bitsToNat : List Bool → Nat
  | [] => 0
  | b :: rest => b.toNat + 2 * bitsToNat rest

/-- A rising clock edge inside a frame samples DIO while the engine drives it. -/
def Monitor.rise (m : Monitor) : Monitor :=
  match m.current, m.clk, m.dio with
  | some _, some false, some v => { m with clk := some true, bits := m.bits ++ [v] }
  | _, _, _ => { m with clk := some true }

/-- A drive of DIO to `v`. With the clock high, a fall is a Start and a rise a Stop. -/
def Monitor.drive (m : Monitor) (v : Bool) : Monitor :=
  match m.clk, m.dio, v with
  | some true, some true, false => { m with dio := some false, current := some [], bits := [] }
  | some true, some false, true =>
    { m with dio := some true, current := none, bits := [],
             frames := m.frames ++ m.current.toList }
  | _, _, _ => { m with dio := some v }

/-- One bus event, as the monitor sees it. A poll ends a byte: the bits sampled since the last one make its value. -/
def Monitor.observe (m : Monitor) : Event → Monitor
  | .cfg => m
  | .clk true => m.rise
  | .clk false => { m with clk := some false }
  | .dio v => m.drive v
  | .rel => { m with dio := none }
  | .poll a =>
    { m with current := m.current.map (· ++ [(BitVec.ofNat 8 (bitsToNat m.bits), a)]), bits := [] }

/-- Both lines high and no frame open. -/
def Monitor.IdleHigh (m : Monitor) : Prop :=
  m.clk = some true ∧ m.dio = some true ∧ m.current = none ∧ m.bits = []

/-- What a monitor has read off a whole trace. -/
def readTrace (trace : List Event) : Monitor := trace.foldl Monitor.observe Monitor.blank

/-- Between `s` and `t` the trace has grown by events that any monitor on an idle bus reads as exactly `frames`, each from
a Start to a Stop, and that leave the bus idle-high. They are `7 + 29 j` events for each frame of `j` bytes (R185). -/
def SendsFrames (s t : State) (frames : List (List (Byte × Answer))) : Prop :=
  ∃ es, t.trace = s.trace ++ es ∧ es.length = (frames.map (fun sent => 7 + 29 * sent.length)).sum ∧
    ∀ m : Monitor, m.IdleHigh → es.foldl Monitor.observe m = { m with frames := m.frames ++ frames }

/-- How often the engine changes the level it drives on DIO while it drives CLK high, starting from the levels given
(R185). A drive that ends a release changes no driven level. -/
def dataChangesWhileHigh : (clk dio : Option Bool) → List Event → Nat
  | _, _, [] => 0
  | clk, dio, .cfg :: rest => dataChangesWhileHigh clk dio rest
  | _, dio, .clk v :: rest => dataChangesWhileHigh (some v) dio rest
  | clk, dio, .dio v :: rest =>
    (if clk = some true ∧ dio = some (!v) then 1 else 0) + dataChangesWhileHigh clk (some v) rest
  | clk, _, .rel :: rest => dataChangesWhileHigh clk none rest
  | clk, dio, .poll _ :: rest => dataChangesWhileHigh clk dio rest

/-- What every frame whose command byte is `cmd` does beside its trace, which is `t`'s, when it draws `drawn` answers: every
field not named here is as in `s`. -/
def busEffect (s t : State) (cmd : Byte) (drawn : Nat) : State :=
  { s with
    lastCmd := some cmd
    fsm := .idle, bitCounter := none, txByte := none
    clk := .driven true, dio := .driven true
    trace := t.trace
    answers := s.answers.drop drawn, draws := s.draws + drawn }

/-- `BUF` with `f` applied to the digits below `DIGITS` that `p` selects, every other byte as it is. -/
def digitsMapped (s : State) (p : Nat → Bool) (f : Byte → Byte) : Memory :=
  s.buf.mapIdx (fun i b => if i < s.cfg.digits ∧ p i then f b else b)

/-- The font has an entry for `code` and the mask of the first one, bit 7 cleared, is `mask` (R62, R130). -/
def FontFinds (font : Memory) (code mask : Byte) : Prop :=
  ∃ k raw, k < font.length / 2 ∧ font[2 * k]? = some code ∧ (∀ j, j < k → font[2 * j]? ≠ some code) ∧
    font[2 * k + 1]? = some raw ∧ mask = raw &&& 0x7F#8

/-- The font has no entry for `code` (R62, R130). -/
def FontLacks (font : Memory) (code : Byte) : Prop :=
  ∀ k, k < font.length / 2 → font[2 * k]? ≠ some code

/-- `src(i)` (R190): the buffer position whose byte data position `i` carries; none where the host supplied no entry. -/
def sourcePosition (reorder : Option Memory) (i : Nat) : Option Nat :=
  match reorder with
  | none => some i
  | some table => table[i]?.map BitVec.toNat

/-- Every source position of the first `count` is there and below `DIGITS` (R190, R265). -/
def SourcesInRange (s : State) (reorder : Option Memory) (count : Nat) : Prop :=
  ∀ i, i < count → ∃ p, sourcePosition reorder i = some p ∧ p < s.cfg.digits

/-- `data` is `[BUF[src(0)], ..., BUF[src(count-1)]]` (R190). -/
def IsGathered (s : State) (reorder : Option Memory) (count : Nat) (data : List Byte) : Prop :=
  data.length = count ∧
    ∀ i, i < count → ∃ p b, sourcePosition reorder i = some p ∧ s.buf[p]? = some b ∧ data[i]? = some b

/-- `DATA` of the last response (R100), 0 where there is none. -/
def lastData (s : State) : Byte := (s.responses.getLast?.getD 0).extractLsb' 0 8

/-- The trace and the line state agree, and `LASTCMD` is the command byte of the last frame on the bus (R26, R40 d). -/
structure State.BusInv (s : State) : Prop where
  idle : s.LinesIdleHigh → (readTrace s.trace).IdleHigh
  untouched : s.LinesUnconfigured → s.trace = []
  lastCmd : s.lastCmd = ((readTrace s.trace).frames.getLast?.bind List.head?).map Prod.fst

/-- The OP of each bus request (R264). -/
def busRequestOp : Instr → Option Byte
  | .sendcmd _ => some 0x20
  | .sendcmdb _ _ => some 0x21
  | .sendbuf _ _ _ => some 0x22
  | .commit _ => some 0x31
  | .pwron => some 0x32
  | .pwroff => some 0x33
  | .toggle => some 0x34
  | .setcontrast _ => some 0x35
  | .segset _ _ => none
  | .radixon _ => none
  | .radixoff _ => none
  | .radixtgl _ => none
  | .fill _ _ _ => none
  | .clear => none
  | .fillall => none
  | .getcur => none
  | .setcur _ => none
  | .putc _ => none
  | .puts _ _ => none
  | .lookup _ => none
  | .init => none
  | .busDataCmd _ _ _ _ => none
  | .busDisplayCtrl _ _ _ => none
  | .busAddress _ _ => none

/-- The requests of the FrameBuffer and FontTable families (R135, R159). -/
def isLocalRequest : Instr → Bool
  | .segset _ _ => true
  | .radixon _ => true
  | .radixoff _ => true
  | .radixtgl _ => true
  | .fill _ _ _ => true
  | .clear => true
  | .fillall => true
  | .getcur => true
  | .setcur _ => true
  | .putc _ => true
  | .puts _ _ => true
  | .lookup _ => true
  | .sendcmd _ => false
  | .sendcmdb _ _ => false
  | .sendbuf _ _ _ => false
  | .init => false
  | .commit _ => false
  | .pwron => false
  | .pwroff => false
  | .toggle => false
  | .setcontrast _ => false
  | .busDataCmd _ _ _ _ => false
  | .busDisplayCtrl _ _ _ => false
  | .busAddress _ _ => false

/-- The three bus command families (R102). -/
def isBusCommand : Instr → Bool
  | .busDataCmd _ _ _ _ => true
  | .busDisplayCtrl _ _ _ => true
  | .busAddress _ _ => true
  | .segset _ _ => false
  | .radixon _ => false
  | .radixoff _ => false
  | .radixtgl _ => false
  | .fill _ _ _ => false
  | .clear => false
  | .fillall => false
  | .getcur => false
  | .setcur _ => false
  | .putc _ => false
  | .puts _ _ => false
  | .lookup _ => false
  | .sendcmd _ => false
  | .sendcmdb _ _ => false
  | .sendbuf _ _ _ => false
  | .init => false
  | .commit _ => false
  | .pwron => false
  | .pwroff => false
  | .toggle => false
  | .setcontrast _ => false

end Sys2Proof.Machine
end

