-- ==== Sys2Proof/Certificates/Slice0/Obligations.lean ====
section
/-! DEFINITION. The statements for the provers, in the order encoding, step, FontTable and FrameBuffer, frames,
ProtocolEngine, DisplayController, bus commands, the whole machine. Where a decode clause ranges over every `operand` of a
request that uses none, what it says of a non-empty one is the model's choice (log 18), not the rule's. -/

section
open Sys2Proof Sys2Proof.Machine

/-! ## Encoding -/

/-- R90, R91, R92, R103 to R105: no bit of an instruction is lost on the way through its encoding. -/
def Obligations.DecodeOfEncodeIsIdentity : Prop := ∀ i : Instr, decode (encode i) = .ok i

/-- R93: the bits of the fields a request uses decide it, and only those. `used` lists them by OP (R91, R92). -/
def Obligations.UnusedFieldsAreIgnored : Prop :=
  ∀ (w : Word) (operand : Memory) (i : Instr), decode (.request w operand) = .ok i →
    let used : Word := match (w.extractLsb' 24 8).toNat with
      | 0x01 => 0xFFFFFF00 | 0x02 => 0xFFFF0000 | 0x03 => 0xFFFF0000 | 0x04 => 0xFFFF0000
      | 0x05 => 0xFFFFFFFF | 0x09 => 0xFFFF0000 | 0x0A => 0xFFFF0000 | 0x0B => 0xFFFF0000
      | 0x10 => 0xFFFF0000 | 0x20 => 0xFFFF0000 | 0x21 => 0xFFFFFF00 | 0x22 => 0xFFFFFF01
      | 0x31 => 0xFF000001 | 0x35 => 0xFFFF0000 | _ => 0xFF000000
    (∃ rest, encode i = .request (w &&& used) rest) ∧
      ∀ w' : Word, w' &&& used = w &&& used → decode (.request w' operand) = .ok i

/-- R94, R95, R263: decoding is total, and exactly the OPs outside the opcode map are undefined; such a request records
`IllegalRequest(OP)` and changes nothing else. -/
def Obligations.UndefinedOpcodesRaiseIllegalRequest : Prop :=
  ∀ (w : Word) (operand : Memory),
    let op := (w.extractLsb' 24 8).toNat
    let undefinedOp := op = 0x00 ∨ (0x0C ≤ op ∧ op ≤ 0x0F) ∨ (0x11 ≤ op ∧ op ≤ 0x1F) ∨
      (0x23 ≤ op ∧ op ≤ 0x2F) ∨ (0x36 ≤ op ∧ op ≤ 0xFF)
    (¬ undefinedOp → ∃ i, decode (.request w operand) = .ok i) ∧
    (undefinedOp → ∀ (s : State) (rest : List PortItem), s.fault = none →
      s.hostPending = .request w operand :: rest →
      step s = .next { s with fault := some (.illegalRequest (w.extractLsb' 24 8)) })

/-- Words of 95_test_vectors.md §2.1 and bus bytes of R103 to R105, written out, decode to what they stand for. -/
def Obligations.WrittenOutWordsDecode : Prop :=
  decode (.request 0x01010600 []) = .ok (.segset 1 0x06) ∧
  decode (.request 0x053F0300 []) = .ok (.fill 0x3F 3 0) ∧
  decode (.request 0x0A310000 []) = .ok (.putc 0x31) ∧
  decode (.request 0x0B050000 [0x31, 0x32, 0x2E, 0x33, 0x34]) = .ok (.puts 5 [0x31, 0x32, 0x2E, 0x33, 0x34]) ∧
  decode (.request 0x22C003FE []) = .ok (.sendbuf 0xC0 3 none) ∧
  decode (.request 0x31000001 [3, 2, 1, 0]) = .ok (.commit (some [3, 2, 1, 0])) ∧
  decode (.request 0x35C80000 []) = .ok (.setcontrast 200) ∧
  decode (.request 0x09FFAA55 []) = .ok (.setcur 255) ∧
  decode (.busCommand 0x40) = .ok (.busDataCmd 0 false false 0) ∧
  decode (.busCommand 0x8B) = .ok (.busDisplayCtrl 0 true 3) ∧
  decode (.busCommand 0xC5) = .ok (.busAddress 0 5)

/-- R100, R101: the fields of a response word; the end of a request returns exactly that word; and which result and data it
carries for each request. A request that records a fault returns none. -/
def Obligations.ResponseWordFields : Prop :=
  (∀ (r : TransmissionResult) (data : Byte),
    (responseWord r data).extractLsb' 0 8 = data ∧
    (responseWord r data).extractLsb' 8 16 = 0 ∧
    (responseWord r data).extractLsb' 24 8 =
      (match r with | .success => 0 | .pinConfigurationError => 1 | .acknowledgeTimeoutError => 2)) ∧
  (∀ (r : TransmissionResult) (data : Byte) (s : State),
    (respond r data s).responses = s.responses ++ [responseWord r data]) ∧
  (∀ (i : Instr) (s t : State), exec i s = .next t → s.fault = none → isBusCommand i = false →
    (t.fault ≠ none → t.responses = s.responses) ∧
    (t.fault = none → ∃ r data, t.responses = s.responses ++ [responseWord r data] ∧
      (i = .init ∨ (∃ op, busRequestOp i = some op) → t.lastResult = some r ∧ data = 0) ∧
      (isLocalRequest i = true → r = .success) ∧
      (i = .getcur → data.toNat = s.cursor.toNat) ∧
      (∀ code, i = .lookup code → data = (lookup code s.cfg.font).getD 0xFF) ∧
      (∀ code, i = .putc code → data.toNat = (writeChar code s).2) ∧
      (∀ n str, i = .puts n str → data.toNat = (writeString (str.take n.toNat) s).2) ∧
      (isLocalRequest i = true → i ≠ .getcur → (∀ code, i ≠ .lookup code) → (∀ code, i ≠ .putc code) →
        (∀ n str, i ≠ .puts n str) → data = 0)))

/-! ## The step -/

/-- A step runs the instruction that the next port item decodes to, and adds nothing around it. -/
def Obligations.StepRunsTheDecodedInstruction : Prop :=
  ∀ (s : State) (item : PortItem) (rest : List PortItem) (i : Instr),
    s.fault = none → s.hostPending = item :: rest → decode item = .ok i → i.wellFormed s.cfg.digits = true →
    step s = exec i s

/-- R262, R291, and the model's stops (logs 6, 7, 8, 9): a faulted engine takes no request, an engine with no request waits,
and what is presented without its operand or without a command family has no meaning. -/
def Obligations.StepOutsideExecution : Prop :=
  (∀ (s : State) (f : EngineFault), s.fault = some f → step s = .fault (.halted f)) ∧
  (∀ s : State, s.fault = none → s.hostPending = [] → step s = .next s) ∧
  (∀ (s : State) (item : PortItem) (rest : List PortItem) (i : Instr), s.fault = none →
    s.hostPending = item :: rest → decode item = .ok i → i.wellFormed s.cfg.digits = false →
    step s = .refused .operandShape) ∧
  (∀ (s : State) (b : Byte) (rest : List PortItem), s.fault = none → s.hostPending = .busCommand b :: rest →
    b.toNat < 0x40 → step s = .refused (.noCommandFamily b))

/-- R20, R71, R100: under the invariants every request of the right operand shape runs to completion in one step. It gets one
response and moves the host's index by one, or it records a fault and changes nothing else. -/
def Obligations.EveryRequestCompletesInOneStep : Prop :=
  ∀ (s : State) (w : Word) (operand : Memory) (rest : List PortItem) (i : Instr),
    s.Inv → s.fault = none → s.hostPending = .request w operand :: rest →
    decode (.request w operand) = .ok i → i.wellFormed s.cfg.digits = true →
    ∃ t, step s = .next t ∧
      ((t.fault = none ∧ t.hostIndex = s.hostIndex + 1 ∧ t.hostPending = rest ∧
          ∃ word, t.responses = s.responses ++ [word]) ∨
       (∃ f, t = { s with fault := some f }))

/-! ## FontTable and FrameBuffer -/

/-- R131, R134, R135: `LOOKUP` returns the mask of the first entry with the code, bit 7 cleared, or 0xFF, and changes
nothing. -/
def Obligations.LookupReturnsFirstMatch : Prop :=
  ∀ (s : State) (code b c : Byte) (operand : Memory),
    decode (.request (packWord 0x10 code b c) operand) = .ok (.lookup code) ∧
    (∀ mask, FontFinds s.cfg.font code mask →
      mask.getLsbD 7 = false ∧ exec (.lookup code) s = .next (respond .success mask s)) ∧
    (FontLacks s.cfg.font code → exec (.lookup code) s = .next (respond .success 0xFF s)) ∧
    ((∃ mask, FontFinds s.cfg.font code mask) ∨ FontLacks s.cfg.font code)

/-- R133: the last byte of a table of odd length is no code. -/
def Obligations.TrailingFontByteIsIgnored : Prop :=
  ∀ (font : Memory) (last code : Byte), font.length % 2 = 0 →
    (∀ mask, FontFinds (font ++ [last]) code mask ↔ FontFinds font code mask) ∧
    lookup code (font ++ [last]) = lookup code font

/-- R140, R141: `SEGSET` writes the segments of one digit in bounds, keeps its radix bit, and changes nothing else. -/
def Obligations.SegsetWritesOneDigit : Prop :=
  ∀ (s : State) (index mask c : Byte) (operand : Memory),
    decode (.request (packWord 0x01 index mask c) operand) = .ok (.segset index mask) ∧
    exec (.segset index mask) s = .next (respond .success 0
      { s with buf := digitsMapped s (· = index.toNat) (fun b => (b &&& 0x80) ||| (mask &&& 0x7F)) })

/-- R142, R143, R144: the radix requests set, clear and flip bit 7 of one digit in bounds, and change nothing else. -/
def Obligations.RadixRequestsWriteOneBit : Prop :=
  ∀ (s : State) (index b c : Byte) (operand : Memory),
    decode (.request (packWord 0x02 index b c) operand) = .ok (.radixon index) ∧
    decode (.request (packWord 0x03 index b c) operand) = .ok (.radixoff index) ∧
    decode (.request (packWord 0x04 index b c) operand) = .ok (.radixtgl index) ∧
    exec (.radixon index) s = .next (respond .success 0
      { s with buf := digitsMapped s (· = index.toNat) (· ||| 0x80) }) ∧
    exec (.radixoff index) s = .next (respond .success 0
      { s with buf := digitsMapped s (· = index.toNat) (· &&& 0x7F) }) ∧
    exec (.radixtgl index) s = .next (respond .success 0
      { s with buf := digitsMapped s (· = index.toNat) (· ^^^ 0x80) })

/-- R145: `FILL` swaps, clamps the upper bound, writes the segments of the range, and leaves `CURSOR` at its last index;
with an empty range it touches nothing. -/
def Obligations.FillWritesTheClampedRange : Prop :=
  ∀ (s : State) (mask start stop : Byte) (operand : Memory),
    let lo := min start.toNat stop.toNat
    let hi := min (max start.toNat stop.toNat) (s.cfg.digits - 1)
    decode (.request (packWord 0x05 mask start stop) operand) = .ok (.fill mask start stop) ∧
    (lo ≤ hi → exec (.fill mask start stop) s = .next (respond .success 0
      { s with
        buf := digitsMapped s (fun i => lo ≤ i && i ≤ hi) (fun b => (b &&& 0x80) ||| (mask &&& 0x7F))
        cursor := BitVec.ofNat 3 hi })) ∧
    (hi < lo → exec (.fill mask start stop) s = .next (respond .success 0 s)) ∧
    (s.cfg.valid → (BitVec.ofNat 3 hi).toNat = hi)

/-- R146: `FILL` with its bounds exchanged is the same request. -/
def Obligations.FillBoundsMayBeSwapped : Prop :=
  ∀ (s : State) (mask a b : Byte), exec (.fill mask a b) s = exec (.fill mask b a) s

/-- R147, R148: `CLEAR` and `FILLALL` write the segments of every digit, keep every radix bit, and leave `CURSOR` at
`DIGITS - 1`. -/
def Obligations.ClearAndFillallWriteEveryDigit : Prop :=
  ∀ (s : State) (a b c : Byte) (operand : Memory), s.cfg.valid →
    decode (.request (packWord 0x06 a b c) operand) = .ok .clear ∧
    decode (.request (packWord 0x07 a b c) operand) = .ok .fillall ∧
    (∃ t, exec .clear s = .next (respond .success 0 { s with
        buf := digitsMapped s (fun _ => true) (· &&& 0x80), cursor := t }) ∧ t.toNat = s.cfg.digits - 1) ∧
    (∃ t, exec .fillall s = .next (respond .success 0 { s with
        buf := digitsMapped s (fun _ => true) (fun x => (x &&& 0x80) ||| 0x7F), cursor := t }) ∧
      t.toNat = s.cfg.digits - 1)

/-- R98: `CLEAR` and `FILLALL` behave exactly as the fills over the whole range, and `TOGGLE` as the power request that the
cached `POWER` selects. -/
def Obligations.ShorthandRequestsAgree : Prop :=
  ∀ s : State, s.cfg.valid →
    exec .clear s = exec (.fill 0x00 0 (BitVec.ofNat 8 (s.cfg.digits - 1))) s ∧
    exec .fillall s = exec (.fill 0x7F 0 (BitVec.ofNat 8 (s.cfg.digits - 1))) s ∧
    (s.ctrl = .ready → exec .toggle s = (match s.power with | .on => exec .pwroff s | .off => exec .pwron s))

/-- R149: segment and radix updates of one digit commute. -/
def Obligations.SegmentAndRadixUpdatesCommute : Prop :=
  ∀ (s t u t' u' : State) (i m : Byte), i.toNat < s.cfg.digits → Memory.wf s.cfg.digits s.buf →
    exec (.segset i m) s = .next t → exec (.radixon i) t = .next u →
    exec (.radixon i) s = .next t' → exec (.segset i m) t' = .next u' →
    u.buf[i.toNat]? = some ((m &&& 0x7F) ||| 0x80) ∧ u'.buf = u.buf

/-- R150, R151: `GETCUR` returns `CURSOR`; `SETCUR` places it for an index in bounds and is ignored otherwise. -/
def Obligations.CursorRequests : Prop :=
  ∀ (s : State) (index a b c : Byte) (operand : Memory), s.cfg.valid →
    decode (.request (packWord 0x08 a b c) operand) = .ok .getcur ∧
    decode (.request (packWord 0x09 index b c) operand) = .ok (.setcur index) ∧
    (∃ data, exec .getcur s = .next (respond .success data s) ∧ data.toNat = s.cursor.toNat) ∧
    (index.toNat < s.cfg.digits → ∃ cur, exec (.setcur index) s = .next (respond .success 0 { s with cursor := cur }) ∧
      cur.toNat = index.toNat) ∧
    (s.cfg.digits ≤ index.toNat → exec (.setcur index) s = .next (respond .success 0 s))

/-- R152 to R157: the four cases of `PUTC`. -/
def Obligations.PutcWritesGlyphOrRadix : Prop :=
  ∀ (s : State) (code b c : Byte) (operand : Memory), s.cfg.valid →
    let punctuation := code = 0x2E ∨ code = 0x2C ∨ code = 0x3A
    decode (.request (packWord 0x0A code b c) operand) = .ok (.putc code) ∧
    (s.cfg.digits ≤ s.cursor.toNat → exec (.putc code) s = .next (respond .success 0 s)) ∧
    (∀ mask, s.cursor.toNat < s.cfg.digits → FontFinds s.cfg.font code mask →
      ∃ next, next.toNat = s.cursor.toNat + 1 ∧
        exec (.putc code) s = .next (respond .success 1 { s with
          buf := digitsMapped s (· = s.cursor.toNat) (fun x => (x &&& 0x80) ||| mask), cursor := next })) ∧
    (s.cursor.toNat < s.cfg.digits → FontLacks s.cfg.font code → punctuation → 0 < s.cursor.toNat →
      exec (.putc code) s = .next (respond .success 1 { s with
        buf := digitsMapped s (· = s.cursor.toNat - 1) (· ||| 0x80) })) ∧
    (s.cursor.toNat < s.cfg.digits → FontLacks s.cfg.font code → (¬ punctuation ∨ s.cursor.toNat = 0) →
      exec (.putc code) s = .next (respond .success 0 s))

/-- R158: `PUTS` of a string is `PUTC` of its first byte and then `PUTS` of the rest, counts added; the empty string does
nothing. -/
def Obligations.PutsIsRepeatedPutc : Prop :=
  (∀ (n b c : Byte) (str : Memory), decode (.request (packWord 0x0B n b c) str) = .ok (.puts n str)) ∧
  (∀ s : State, exec (.puts 0 []) s = .next (respond .success 0 s)) ∧
  (∀ (s : State) (n code : Byte) (rest : Memory), n.toNat = rest.length + 1 →
    ∃ one more total, exec (.putc code) s = .next one ∧ exec (.puts (n - 1) rest) one = .next more ∧
      exec (.puts n (code :: rest)) s = .next (respond .success total
        { s with buf := more.buf, cursor := more.cursor }) ∧
      total.toNat = (lastData one).toNat + (lastData more).toNat ∧ total.toNat ≤ n.toNat)

/-- R135, R159: the FrameBuffer and FontTable requests touch nothing but `BUF` and `CURSOR` and the host's side, and act the
same whatever `CTRL` is. -/
def Obligations.LocalRequestsLeaveBusAndStatusAlone : Prop :=
  ∀ (i : Instr) (s t : State), isLocalRequest i = true → exec i s = .next t →
    t = { s with buf := t.buf, cursor := t.cursor, fr := none, responses := t.responses
                 hostIndex := s.hostIndex + 1, hostPending := s.hostPending.drop 1 } ∧
    ∀ ctrl, exec i { s with ctrl := ctrl } = .next { t with ctrl := ctrl }

/-- Segment requests keep every radix bit, and radix requests every segment bit (10_state.md §2). -/
def Obligations.SegmentsAndRadixAreIndependent : Prop :=
  ∀ (s t : State) (i : Instr) (j k : Nat) (before after : Byte), exec i s = .next t →
    s.buf[j]? = some before → t.buf[j]? = some after → k < 8 →
    ((∃ a b c, i = .segset a b ∨ i = .fill a b c ∨ i = .clear ∨ i = .fillall) → k = 7 →
      after.getLsbD k = before.getLsbD k) ∧
    ((∃ a, i = .radixon a ∨ i = .radixoff a ∨ i = .radixtgl a) → k < 7 →
      after.getLsbD k = before.getLsbD k)

/-! ## Frames -/

/-- R66, R180 to R185: the bus monitor reads every frame, from Start to Stop, as exactly the bytes the frame sends with the
receiver's answers, least significant bit first, up to and including the first byte that is not acknowledged. -/
def Obligations.MonitorReadsEveryFrame : Prop :=
  ∀ (s : State) (cmd : Byte) (data : List Byte),
    SendsFrames s (frame cmd data s) [transcript (answerAt s) (cmd :: data)]

/-- R185: a frame in which `j` bytes were sent emits Start, then `j` times 25 events of ByteOut and the four of AckWait, then
Stop: `7 + 29 j` events. From an idle-high bus the driven data level changes with the clock high exactly twice, which Start
and Stop do. -/
def Obligations.FrameHasItsEventCount : Prop :=
  ∀ (s : State) (cmd : Byte) (data : List Byte),
    ∃ (es : List Event) (sent : List (List Event × Answer)),
      (frame cmd data s).trace = s.trace ++ es ∧ (frame cmd data s).draws = s.draws + sent.length ∧
      1 ≤ sent.length ∧ sent.length ≤ 1 + data.length ∧ (∀ x ∈ sent, x.1.length = 25) ∧
      es = [.dio true, .clk true, .dio false] ++
        sent.flatMap (fun x => x.1 ++ [.rel, .clk true, .poll x.2, .clk false]) ++
        [.clk false, .dio false, .clk true, .dio true] ∧
      es.length = 7 + 29 * sent.length ∧ dataChangesWhileHigh (some true) (some true) es = 2

/-- R191: a frame's result is a timeout iff some AckWait of the frame answered `nak`, and otherwise `Success`. -/
def Obligations.FrameTimesOutIffSomeNak : Prop :=
  ∀ (s : State) (cmd : Byte) (data : List Byte),
    (frameResult (frame cmd data s) = .acknowledgeTimeoutError ↔
      ∃ k, s.draws + k < (frame cmd data s).draws ∧ answerAt s k = .nak) ∧
    (frameResult (frame cmd data s) = .success ∨ frameResult (frame cmd data s) = .acknowledgeTimeoutError)

/-- R183, R192: every frame, whatever the answers and whatever state it starts in, ends with Stop: the engine is idle and both
lines are outputs at 1. Nothing else of the state is touched but `LASTCMD`, the trace and the answers drawn. -/
def Obligations.FramesAlwaysClose : Prop :=
  ∀ (s : State) (cmd : Byte) (data : List Byte),
    let t := frame cmd data s
    [Event.clk false, Event.dio false, Event.clk true, Event.dio true] <:+ t.trace ∧
    t.fsm = .idle ∧ t.LinesIdleHigh ∧ t.lastCmd = some cmd ∧
    ∃ drawn, t = { busEffect s t cmd drawn with fr := t.fr }

/-! ## ProtocolEngine -/

/-- R264: each of the eight bus requests raises `NotReady(OP)` while `CTRL = Uninitialized`, before any effect, and no other
request ever does. -/
def Obligations.BusRequestsNeedReady : Prop :=
  (∀ (i : Instr) (op : Byte) (s : State), busRequestOp i = some op → s.ctrl = .uninitialized →
    exec i s = .next { s with fault := some (.notReady op) }) ∧
  (∀ (i : Instr) (op : Byte) (s t : State), exec i s = .next t → s.fault = none → t.fault = some (.notReady op) →
    isBusCommand i = false → busRequestOp i = some op ∧ s.ctrl = .uninitialized)

/-- R188, R189: `SENDCMD` and `SENDCMDB` send one frame of their operand bytes, unchecked, and return its result. -/
def Obligations.SendcmdRequestsSendOneFrame : Prop :=
  ∀ (s : State) (cmd data b c : Byte) (operand : Memory),
    decode (.request (packWord 0x20 cmd b c) operand) = .ok (.sendcmd cmd) ∧
    decode (.request (packWord 0x21 cmd data c) operand) = .ok (.sendcmdb cmd data) ∧
    (s.ctrl = .uninitialized →
      exec (.sendcmd cmd) s = .next { s with fault := some (.notReady 0x20) } ∧
      exec (.sendcmdb cmd data) s = .next { s with fault := some (.notReady 0x21) }) ∧
    (s.ctrl = .ready → ∀ (i : Instr) (bytes : List Byte),
      (i = .sendcmd cmd ∧ bytes = [cmd]) ∨ (i = .sendcmdb cmd data ∧ bytes = [cmd, data]) →
      let sent := transcript (answerAt s) bytes
      ∃ t, exec i s = .next t ∧ SendsFrames s t [sent] ∧
        t = respond (resultOf sent) 0 { busEffect s t cmd sent.length with lastResult := some (resultOf sent) })

/-- R190: `SENDBUF` sends its command and `count` buffer bytes, in order or through the reorder table, in one frame. -/
def Obligations.SendbufSendsBufferBytes : Prop :=
  ∀ (s : State) (cmd count c : Byte) (operand : Memory) (reorder : Option Memory),
    decode (.request (packWord 0x22 cmd count c) operand) =
      .ok (.sendbuf cmd count (if c.getLsbD 0 then some operand else none)) ∧
    (s.ctrl = .uninitialized → exec (.sendbuf cmd count reorder) s = .next { s with fault := some (.notReady 0x22) }) ∧
    (s.ctrl = .ready → Memory.wf s.cfg.digits s.buf → count.toNat ≤ s.cfg.digits →
      SourcesInRange s reorder count.toNat →
      ∃ t data, IsGathered s reorder count.toNat data ∧
        exec (.sendbuf cmd count reorder) s = .next t ∧
        let sent := transcript (answerAt s) (cmd :: data)
        SendsFrames s t [sent] ∧
        t = respond (resultOf sent) 0 { busEffect s t cmd sent.length with lastResult := some (resultOf sent) })

/-- R265, R267: `BadCount` and `BadReorder` at the least failing entry, before any effect. -/
def Obligations.OutOfRangeOperandsRaise : Prop :=
  (∀ (s : State) (cmd count : Byte) (reorder : Option Memory), s.ctrl = .ready → s.cfg.digits < count.toNat →
    exec (.sendbuf cmd count reorder) s = .next { s with fault := some (.badCount count) }) ∧
  (∀ (s : State) (cmd count entry : Byte) (table : Memory) (i : Nat), s.ctrl = .ready →
    table[i]? = some entry → s.cfg.digits ≤ entry.toNat → SourcesInRange s (some table) i →
    (i < count.toNat → count.toNat ≤ s.cfg.digits →
      exec (.sendbuf cmd count (some table)) s = .next { s with fault := some (.badReorder i) }) ∧
    (i < s.cfg.digits →
      exec (.commit (some table)) s = .next { s with fault := some (.badReorder i) }))

/-! ## DisplayController -/

/-- R221, R223, R224: `INIT`. With equal pins nothing but `LASTRESULT` changes. Otherwise it configures the lines, clears the
buffer, places the cursor, stores the default contrast and sends the power-on frame; `POWER` and `CTRL` follow its success. -/
def Obligations.InitConfiguresAndPowersOn : Prop :=
  ∀ (s : State) (a b c : Byte) (operand : Memory),
    decode (.request (packWord 0x30 a b c) operand) = .ok .init ∧
    (s.cfg.clkPin = s.cfg.dioPin → exec .init s =
      .next (respond .pinConfigurationError 0 { s with lastResult := some .pinConfigurationError })) ∧
    (s.cfg.clkPin ≠ s.cfg.dioPin →
      let cmd : Byte := 0x88 ||| s.cfg.contrastDefault.setWidth 8
      let sent := transcript (answerAt s) [cmd]
      let r := resultOf sent
      ∃ t, exec .init s = .next t ∧
        SendsFrames { s with trace := s.trace ++ [.cfg, .dio true, .clk true] } t [sent] ∧
        t = respond r 0 { busEffect s t cmd sent.length with
          buf := List.replicate s.cfg.digits 0x00
          cursor := 0
          contrast := s.cfg.contrastDefault
          power := if r = .success then .on else s.power
          ctrl := if r = .success then .ready else s.ctrl
          lastResult := some r })

/-- R294: two successful `INIT`s of engines with one configuration leave the same registers, and the trace grows. -/
def Obligations.InitIsIdempotent : Prop :=
  ∀ s s' t t' : State, s.cfg = s'.cfg → exec .init s = .next t → exec .init s' = .next t' →
    t.lastResult = some .success → t'.lastResult = some .success →
    t.buf = t'.buf ∧ t.cursor = t'.cursor ∧ t.contrast = t'.contrast ∧ t.lastCmd = t'.lastCmd ∧
    t.power = .on ∧ t'.power = .on ∧ t.ctrl = .ready ∧ t'.ctrl = .ready ∧
    (∀ b, b ∈ t.buf → b = 0x00) ∧ t.cursor = 0 ∧ t.contrast = s.cfg.contrastDefault ∧
    t.lastCmd = some (0x88 ||| s.cfg.contrastDefault.setWidth 8) ∧ s.trace <+: t.trace

/-- R225 to R228: `PWRON`, `PWROFF` and `TOGGLE` send one display-control byte with the stored contrast, and `POWER` follows
only a success. -/
def Obligations.PowerRequestsFollowSuccess : Prop :=
  ∀ (s : State) (a b c : Byte) (operand : Memory),
    decode (.request (packWord 0x32 a b c) operand) = .ok .pwron ∧
    decode (.request (packWord 0x33 a b c) operand) = .ok .pwroff ∧
    decode (.request (packWord 0x34 a b c) operand) = .ok .toggle ∧
    (s.ctrl = .uninitialized →
      exec .pwron s = .next { s with fault := some (.notReady 0x32) } ∧
      exec .pwroff s = .next { s with fault := some (.notReady 0x33) } ∧
      exec .toggle s = .next { s with fault := some (.notReady 0x34) }) ∧
    (s.ctrl = .ready → ∀ (i : Instr) (p : Power),
      (i = .pwron ∧ p = .on) ∨ (i = .pwroff ∧ p = .off) ∨ (i = .toggle ∧ p ≠ s.power) →
      let cmd : Byte := (if p = .on then 0x88 else 0x80) ||| s.contrast.setWidth 8
      let sent := transcript (answerAt s) [cmd]
      let r := resultOf sent
      ∃ t, exec i s = .next t ∧ SendsFrames s t [sent] ∧
        t = respond r 0 { busEffect s t cmd sent.length with
          power := if r = .success then p else s.power, lastResult := some r })

/-- R229: `SETCONTRAST` stores the clamped level, which stays whatever the frame's result, and switches the display on. -/
def Obligations.SetcontrastClampsAndPowersOn : Prop :=
  ∀ (s : State) (level b c : Byte) (operand : Memory),
    decode (.request (packWord 0x35 level b c) operand) = .ok (.setcontrast level) ∧
    (s.ctrl = .uninitialized → exec (.setcontrast level) s = .next { s with fault := some (.notReady 0x35) }) ∧
    (s.ctrl = .ready → ∃ contrast : BitVec 3, contrast.toNat = min level.toNat 7 ∧
      let cmd : Byte := 0x88 ||| contrast.setWidth 8
      let sent := transcript (answerAt s) [cmd]
      let r := resultOf sent
      ∃ t, exec (.setcontrast level) s = .next t ∧ SendsFrames s t [sent] ∧
        t = respond r 0 { busEffect s t cmd sent.length with
          contrast := contrast, power := if r = .success then .on else s.power, lastResult := some r })

/-- R230, R231: `COMMIT` sends the data command and then the address command with all buffer bytes, in two frames, and
returns the first failure. It does not write `BUF`. -/
def Obligations.CommitSendsTwoFrames : Prop :=
  ∀ (s : State) (a b c : Byte) (operand : Memory) (reorder : Option Memory),
    decode (.request (packWord 0x31 a b c) operand) = .ok (.commit (if c.getLsbD 0 then some operand else none)) ∧
    (s.ctrl = .uninitialized → exec (.commit reorder) s = .next { s with fault := some (.notReady 0x31) }) ∧
    (s.ctrl = .ready → Memory.wf s.cfg.digits s.buf → SourcesInRange s reorder s.cfg.digits →
      ∃ t data, IsGathered s reorder s.cfg.digits data ∧ exec (.commit reorder) s = .next t ∧
        let sent1 := transcript (answerAt s) [0x40]
        let sent2 := transcript (fun k => answerAt s (k + sent1.length)) (0xC0 :: data)
        let r := if resultOf sent1 = .success then resultOf sent2 else resultOf sent1
        SendsFrames s t [sent1, sent2] ∧
        t = respond r 0 { busEffect s t 0xC0 (sent1.length + sent2.length) with lastResult := some r })

/-- R232: with four digits and every answer `ack`, `COMMIT` puts exactly 0x40 and then 0xC0 and the buffer on the wire, in two
frames of 36 and 152 events, and succeeds. -/
def Obligations.CommitPutsTheBufferOnTheWire : Prop :=
  ∀ (s : State) (b0 b1 b2 b3 : Byte), s.ctrl = .ready → s.cfg.digits = 4 → s.buf = [b0, b1, b2, b3] → allAck s 6 →
    ∃ t, exec (.commit none) s = .next t ∧ t.lastResult = some .success ∧ t.buf = s.buf ∧
      t.trace.length = s.trace.length + 36 + 152 ∧
      SendsFrames s t [[(0x40, .ack)], [(0xC0, .ack), (b0, .ack), (b1, .ack), (b2, .ack), (b3, .ack)]]

/-! ## Bus commands -/

/-- R107 and log 8 (the model's choice): a bus command byte is sent as given in a frame of its own, with no response and no
`LASTRESULT`, and `POWER` and `CONTRAST` do not follow it. Before `INIT` it raises `NotReady`. -/
def Obligations.BusCommandsAreFramed : Prop :=
  ∀ (s : State) (i : Instr) (b : Byte), isBusCommand i = true → encode i = .busCommand b →
    (s.ctrl = .uninitialized → exec i s = .next { s with fault := some (.notReady b) }) ∧
    (s.ctrl = .ready →
      let sent := transcript (answerAt s) [b]
      ∃ t, exec i s = .next t ∧ SendsFrames s t [sent] ∧
        t = { busEffect s t b sent.length with fr := none, hostPending := s.hostPending.drop 1 })

/-- R102, R103, R104, R105: the three families by their base, and the sub-fields of display-control and address bytes. That
every byte from 0x40 up decodes, sub-fields reserved at the receiver included, is the DEDUCED sentence of log 8. -/
def Obligations.BusCommandBytes : Prop :=
  (∀ (on : Bool) (c : BitVec 3), encode (.busDisplayCtrl 0 on c) =
    .busCommand (0x80 ||| (if on then 0x08 else 0x00) ||| c.setWidth 8)) ∧
  (∀ a : BitVec 4, encode (.busAddress 0 a) = .busCommand (0xC0 ||| a.setWidth 8)) ∧
  (encode (.busDataCmd 0 false false 0) = .busCommand 0x40) ∧
  (∀ b : Byte, (∃ i, decode (.busCommand b) = .ok i ∧ encode i = .busCommand b) ↔ ¬ b.toNat < 0x40)

/-! ## The whole machine -/

/-- R39, R290: what construction leaves, for every configuration. `BUF` has its `DIGITS` bytes, of no stated value. -/
def Obligations.ResetValues : Prop :=
  ∀ cfg : Config, let s := State.construct cfg
    s.cfg = cfg ∧ s.buf.length = cfg.digits ∧ s.cursor = 0 ∧ s.power = .off ∧ s.lastCmd = none ∧ s.lastResult = none ∧
    s.ctrl = .uninitialized ∧ s.clk = .unconfigured ∧ s.dio = .unconfigured ∧ s.fsm = .idle ∧ s.trace = [] ∧
    (cfg.valid → s.fault = none)

/-- R266: a configuration outside 1..6 digits takes no request, whatever the host presents; any other is accepted, whatever
its pins. -/
def Obligations.InvalidConfigurationTakesNoRequest : Prop :=
  ∀ (cfg : Config) (pending : List PortItem),
    (¬ (1 ≤ cfg.digits ∧ cfg.digits ≤ 6) →
      (State.construct cfg).fault = some .configInvalid ∧
      step { State.construct cfg with hostPending := pending } = .fault (.halted .configInvalid)) ∧
    (1 ≤ cfg.digits ∧ cfg.digits ≤ 6 → (State.construct cfg).fault = none)

/-- R40: the invariants hold after construction. -/
def Obligations.InvariantsHoldAtReset : Prop :=
  (∀ cfg : Config, cfg.valid → (State.construct cfg).Inv ∧ (State.construct cfg).BusInv) ∧
  State.reset.Inv ∧ State.reset.BusInv

/-- R40: every step keeps the invariants, from every state that has them. -/
def Obligations.EveryStepKeepsTheInvariants : Prop :=
  ∀ s t : State, s.Inv → step s = .next t → t.Inv

/-- R26, R40 d, R192: every step keeps the agreement of the trace with the lines and with `LASTCMD`. -/
def Obligations.EveryStepKeepsTheBusInvariants : Prop :=
  ∀ s t : State, s.Inv → s.BusInv → step s = .next t → t.BusInv

/-- R28, R34, R36: no step writes the configuration, takes `CTRL` out of `Ready`, or takes back an event. -/
def Obligations.ConfigurationReadyAndTracePersist : Prop :=
  ∀ s t : State, step s = .next t →
    t.cfg = s.cfg ∧ (s.ctrl = .ready → t.ctrl = .ready) ∧ s.trace <+: t.trace ∧ s.responses <+: t.responses

/-- R262: a step that records a fault changes nothing else, and the faulted engine takes no later request. -/
def Obligations.FaultsArePrecise : Prop :=
  ∀ (s t : State) (f : EngineFault), step s = .next t → t.fault = some f →
    t = { s with fault := some f } ∧ step t = .fault (.halted f)

/-- R21, R24 to R28, R38: who may write which register. -/
def Obligations.RegistersHaveTheirWriters : Prop :=
  ∀ (i : Instr) (s t : State), exec i s = .next t →
    (t.buf ≠ s.buf → i = .init ∨ (isLocalRequest i = true ∧ (∀ c, i ≠ .lookup c) ∧ i ≠ .getcur ∧ ∀ x, i ≠ .setcur x)) ∧
    (t.cursor ≠ s.cursor → i = .init ∨ (∃ m a b, i = .fill m a b) ∨ i = .clear ∨ i = .fillall ∨
      (∃ x, i = .setcur x) ∨ (∃ x, i = .putc x) ∨ ∃ n x, i = .puts n x) ∧
    (t.contrast ≠ s.contrast → i = .init ∨ ∃ l, i = .setcontrast l) ∧
    (t.power ≠ s.power → (i = .init ∨ i = .pwron ∨ i = .pwroff ∨ i = .toggle ∨ ∃ l, i = .setcontrast l) ∧
      t.lastResult = some .success) ∧
    (t.ctrl ≠ s.ctrl → i = .init ∧ t.lastResult = some .success) ∧
    (t.lastCmd ≠ s.lastCmd → i = .init ∨ (∃ op, busRequestOp i = some op) ∨ isBusCommand i = true) ∧
    (t.lastResult ≠ s.lastResult → i = .init ∨ ∃ op, busRequestOp i = some op)

/-- R5, R186: the receiver's answers reach the result, `POWER`, `CTRL`, the lines' history and `LASTRESULT`, and nothing of
the buffer, the cursor, the contrast, the command byte recorded, the fault or the host's place. -/
def Obligations.AnswersDoNotReachTheBuffer : Prop :=
  ∀ (s t : State) (answers : List Answer) (draws : Nat), step s = .next t →
    ∃ u, step { s with answers := answers, draws := draws } = .next u ∧
      u.cfg = t.cfg ∧ u.buf = t.buf ∧ u.cursor = t.cursor ∧ u.contrast = t.contrast ∧ u.lastCmd = t.lastCmd ∧
      u.fault = t.fault ∧ u.clk = t.clk ∧ u.dio = t.dio ∧ u.fsm = t.fsm ∧
      u.hostPending = t.hostPending ∧ u.hostIndex = t.hostIndex ∧ u.responses.length = t.responses.length

/-- R276: a request has at most `2 + DIGITS` AckWaits. -/
def Obligations.AckWaitsAreBounded : Prop :=
  ∀ s t : State, s.Inv → step s = .next t → s.draws ≤ t.draws ∧ t.draws ≤ s.draws + (2 + s.cfg.digits)

end
end

