-- ==== Sys2Proof/Laws/State.lean ====
section
/-! SUPPORT. What each named update does to each field of State: true by definition, for simp, so that no proof unfolds a
record update. -/

namespace Sys2Proof.Machine

variable (s : State)

/-! `updateDigit` writes buf. -/

@[simp] theorem updateDigit_cfg (i : Nat) (f : Byte → Byte) : (updateDigit i f s).cfg = s.cfg := rfl
@[simp] theorem updateDigit_buf (i : Nat) (f : Byte → Byte) : (updateDigit i f s).buf = if inBounds i s then Memory.update s.buf i f else s.buf := rfl
@[simp] theorem updateDigit_cursor (i : Nat) (f : Byte → Byte) : (updateDigit i f s).cursor = s.cursor := rfl
@[simp] theorem updateDigit_contrast (i : Nat) (f : Byte → Byte) : (updateDigit i f s).contrast = s.contrast := rfl
@[simp] theorem updateDigit_power (i : Nat) (f : Byte → Byte) : (updateDigit i f s).power = s.power := rfl
@[simp] theorem updateDigit_lastCmd (i : Nat) (f : Byte → Byte) : (updateDigit i f s).lastCmd = s.lastCmd := rfl
@[simp] theorem updateDigit_lastResult (i : Nat) (f : Byte → Byte) : (updateDigit i f s).lastResult = s.lastResult := rfl
@[simp] theorem updateDigit_ctrl (i : Nat) (f : Byte → Byte) : (updateDigit i f s).ctrl = s.ctrl := rfl
@[simp] theorem updateDigit_clk (i : Nat) (f : Byte → Byte) : (updateDigit i f s).clk = s.clk := rfl
@[simp] theorem updateDigit_dio (i : Nat) (f : Byte → Byte) : (updateDigit i f s).dio = s.dio := rfl
@[simp] theorem updateDigit_fsm (i : Nat) (f : Byte → Byte) : (updateDigit i f s).fsm = s.fsm := rfl
@[simp] theorem updateDigit_bitCounter (i : Nat) (f : Byte → Byte) : (updateDigit i f s).bitCounter = s.bitCounter := rfl
@[simp] theorem updateDigit_txByte (i : Nat) (f : Byte → Byte) : (updateDigit i f s).txByte = s.txByte := rfl
@[simp] theorem updateDigit_fr (i : Nat) (f : Byte → Byte) : (updateDigit i f s).fr = s.fr := rfl
@[simp] theorem updateDigit_fault (i : Nat) (f : Byte → Byte) : (updateDigit i f s).fault = s.fault := rfl
@[simp] theorem updateDigit_trace (i : Nat) (f : Byte → Byte) : (updateDigit i f s).trace = s.trace := rfl
@[simp] theorem updateDigit_hostPending (i : Nat) (f : Byte → Byte) : (updateDigit i f s).hostPending = s.hostPending := rfl
@[simp] theorem updateDigit_hostIndex (i : Nat) (f : Byte → Byte) : (updateDigit i f s).hostIndex = s.hostIndex := rfl
@[simp] theorem updateDigit_responses (i : Nat) (f : Byte → Byte) : (updateDigit i f s).responses = s.responses := rfl
@[simp] theorem updateDigit_answers (i : Nat) (f : Byte → Byte) : (updateDigit i f s).answers = s.answers := rfl
@[simp] theorem updateDigit_draws (i : Nat) (f : Byte → Byte) : (updateDigit i f s).draws = s.draws := rfl

/-! `clearWholeBuffer` writes buf. -/

@[simp] theorem clearWholeBuffer_cfg : (clearWholeBuffer s).cfg = s.cfg := rfl
@[simp] theorem clearWholeBuffer_buf : (clearWholeBuffer s).buf = List.replicate s.cfg.digits 0x00#8 := rfl
@[simp] theorem clearWholeBuffer_cursor : (clearWholeBuffer s).cursor = s.cursor := rfl
@[simp] theorem clearWholeBuffer_contrast : (clearWholeBuffer s).contrast = s.contrast := rfl
@[simp] theorem clearWholeBuffer_power : (clearWholeBuffer s).power = s.power := rfl
@[simp] theorem clearWholeBuffer_lastCmd : (clearWholeBuffer s).lastCmd = s.lastCmd := rfl
@[simp] theorem clearWholeBuffer_lastResult : (clearWholeBuffer s).lastResult = s.lastResult := rfl
@[simp] theorem clearWholeBuffer_ctrl : (clearWholeBuffer s).ctrl = s.ctrl := rfl
@[simp] theorem clearWholeBuffer_clk : (clearWholeBuffer s).clk = s.clk := rfl
@[simp] theorem clearWholeBuffer_dio : (clearWholeBuffer s).dio = s.dio := rfl
@[simp] theorem clearWholeBuffer_fsm : (clearWholeBuffer s).fsm = s.fsm := rfl
@[simp] theorem clearWholeBuffer_bitCounter : (clearWholeBuffer s).bitCounter = s.bitCounter := rfl
@[simp] theorem clearWholeBuffer_txByte : (clearWholeBuffer s).txByte = s.txByte := rfl
@[simp] theorem clearWholeBuffer_fr : (clearWholeBuffer s).fr = s.fr := rfl
@[simp] theorem clearWholeBuffer_fault : (clearWholeBuffer s).fault = s.fault := rfl
@[simp] theorem clearWholeBuffer_trace : (clearWholeBuffer s).trace = s.trace := rfl
@[simp] theorem clearWholeBuffer_hostPending : (clearWholeBuffer s).hostPending = s.hostPending := rfl
@[simp] theorem clearWholeBuffer_hostIndex : (clearWholeBuffer s).hostIndex = s.hostIndex := rfl
@[simp] theorem clearWholeBuffer_responses : (clearWholeBuffer s).responses = s.responses := rfl
@[simp] theorem clearWholeBuffer_answers : (clearWholeBuffer s).answers = s.answers := rfl
@[simp] theorem clearWholeBuffer_draws : (clearWholeBuffer s).draws = s.draws := rfl

/-! `setCursor` writes cursor. -/

@[simp] theorem setCursor_cfg (n : Nat) : (setCursor n s).cfg = s.cfg := rfl
@[simp] theorem setCursor_buf (n : Nat) : (setCursor n s).buf = s.buf := rfl
@[simp] theorem setCursor_cursor (n : Nat) : (setCursor n s).cursor = BitVec.ofNat 3 n := rfl
@[simp] theorem setCursor_contrast (n : Nat) : (setCursor n s).contrast = s.contrast := rfl
@[simp] theorem setCursor_power (n : Nat) : (setCursor n s).power = s.power := rfl
@[simp] theorem setCursor_lastCmd (n : Nat) : (setCursor n s).lastCmd = s.lastCmd := rfl
@[simp] theorem setCursor_lastResult (n : Nat) : (setCursor n s).lastResult = s.lastResult := rfl
@[simp] theorem setCursor_ctrl (n : Nat) : (setCursor n s).ctrl = s.ctrl := rfl
@[simp] theorem setCursor_clk (n : Nat) : (setCursor n s).clk = s.clk := rfl
@[simp] theorem setCursor_dio (n : Nat) : (setCursor n s).dio = s.dio := rfl
@[simp] theorem setCursor_fsm (n : Nat) : (setCursor n s).fsm = s.fsm := rfl
@[simp] theorem setCursor_bitCounter (n : Nat) : (setCursor n s).bitCounter = s.bitCounter := rfl
@[simp] theorem setCursor_txByte (n : Nat) : (setCursor n s).txByte = s.txByte := rfl
@[simp] theorem setCursor_fr (n : Nat) : (setCursor n s).fr = s.fr := rfl
@[simp] theorem setCursor_fault (n : Nat) : (setCursor n s).fault = s.fault := rfl
@[simp] theorem setCursor_trace (n : Nat) : (setCursor n s).trace = s.trace := rfl
@[simp] theorem setCursor_hostPending (n : Nat) : (setCursor n s).hostPending = s.hostPending := rfl
@[simp] theorem setCursor_hostIndex (n : Nat) : (setCursor n s).hostIndex = s.hostIndex := rfl
@[simp] theorem setCursor_responses (n : Nat) : (setCursor n s).responses = s.responses := rfl
@[simp] theorem setCursor_answers (n : Nat) : (setCursor n s).answers = s.answers := rfl
@[simp] theorem setCursor_draws (n : Nat) : (setCursor n s).draws = s.draws := rfl

/-! `setContrastReg` writes contrast. -/

@[simp] theorem setContrastReg_cfg (c : BitVec 3) : (setContrastReg c s).cfg = s.cfg := rfl
@[simp] theorem setContrastReg_buf (c : BitVec 3) : (setContrastReg c s).buf = s.buf := rfl
@[simp] theorem setContrastReg_cursor (c : BitVec 3) : (setContrastReg c s).cursor = s.cursor := rfl
@[simp] theorem setContrastReg_contrast (c : BitVec 3) : (setContrastReg c s).contrast = c := rfl
@[simp] theorem setContrastReg_power (c : BitVec 3) : (setContrastReg c s).power = s.power := rfl
@[simp] theorem setContrastReg_lastCmd (c : BitVec 3) : (setContrastReg c s).lastCmd = s.lastCmd := rfl
@[simp] theorem setContrastReg_lastResult (c : BitVec 3) : (setContrastReg c s).lastResult = s.lastResult := rfl
@[simp] theorem setContrastReg_ctrl (c : BitVec 3) : (setContrastReg c s).ctrl = s.ctrl := rfl
@[simp] theorem setContrastReg_clk (c : BitVec 3) : (setContrastReg c s).clk = s.clk := rfl
@[simp] theorem setContrastReg_dio (c : BitVec 3) : (setContrastReg c s).dio = s.dio := rfl
@[simp] theorem setContrastReg_fsm (c : BitVec 3) : (setContrastReg c s).fsm = s.fsm := rfl
@[simp] theorem setContrastReg_bitCounter (c : BitVec 3) : (setContrastReg c s).bitCounter = s.bitCounter := rfl
@[simp] theorem setContrastReg_txByte (c : BitVec 3) : (setContrastReg c s).txByte = s.txByte := rfl
@[simp] theorem setContrastReg_fr (c : BitVec 3) : (setContrastReg c s).fr = s.fr := rfl
@[simp] theorem setContrastReg_fault (c : BitVec 3) : (setContrastReg c s).fault = s.fault := rfl
@[simp] theorem setContrastReg_trace (c : BitVec 3) : (setContrastReg c s).trace = s.trace := rfl
@[simp] theorem setContrastReg_hostPending (c : BitVec 3) : (setContrastReg c s).hostPending = s.hostPending := rfl
@[simp] theorem setContrastReg_hostIndex (c : BitVec 3) : (setContrastReg c s).hostIndex = s.hostIndex := rfl
@[simp] theorem setContrastReg_responses (c : BitVec 3) : (setContrastReg c s).responses = s.responses := rfl
@[simp] theorem setContrastReg_answers (c : BitVec 3) : (setContrastReg c s).answers = s.answers := rfl
@[simp] theorem setContrastReg_draws (c : BitVec 3) : (setContrastReg c s).draws = s.draws := rfl

/-! `setCtrl` writes ctrl. -/

@[simp] theorem setCtrl_cfg (c : Ctrl) : (setCtrl c s).cfg = s.cfg := rfl
@[simp] theorem setCtrl_buf (c : Ctrl) : (setCtrl c s).buf = s.buf := rfl
@[simp] theorem setCtrl_cursor (c : Ctrl) : (setCtrl c s).cursor = s.cursor := rfl
@[simp] theorem setCtrl_contrast (c : Ctrl) : (setCtrl c s).contrast = s.contrast := rfl
@[simp] theorem setCtrl_power (c : Ctrl) : (setCtrl c s).power = s.power := rfl
@[simp] theorem setCtrl_lastCmd (c : Ctrl) : (setCtrl c s).lastCmd = s.lastCmd := rfl
@[simp] theorem setCtrl_lastResult (c : Ctrl) : (setCtrl c s).lastResult = s.lastResult := rfl
@[simp] theorem setCtrl_ctrl (c : Ctrl) : (setCtrl c s).ctrl = c := rfl
@[simp] theorem setCtrl_clk (c : Ctrl) : (setCtrl c s).clk = s.clk := rfl
@[simp] theorem setCtrl_dio (c : Ctrl) : (setCtrl c s).dio = s.dio := rfl
@[simp] theorem setCtrl_fsm (c : Ctrl) : (setCtrl c s).fsm = s.fsm := rfl
@[simp] theorem setCtrl_bitCounter (c : Ctrl) : (setCtrl c s).bitCounter = s.bitCounter := rfl
@[simp] theorem setCtrl_txByte (c : Ctrl) : (setCtrl c s).txByte = s.txByte := rfl
@[simp] theorem setCtrl_fr (c : Ctrl) : (setCtrl c s).fr = s.fr := rfl
@[simp] theorem setCtrl_fault (c : Ctrl) : (setCtrl c s).fault = s.fault := rfl
@[simp] theorem setCtrl_trace (c : Ctrl) : (setCtrl c s).trace = s.trace := rfl
@[simp] theorem setCtrl_hostPending (c : Ctrl) : (setCtrl c s).hostPending = s.hostPending := rfl
@[simp] theorem setCtrl_hostIndex (c : Ctrl) : (setCtrl c s).hostIndex = s.hostIndex := rfl
@[simp] theorem setCtrl_responses (c : Ctrl) : (setCtrl c s).responses = s.responses := rfl
@[simp] theorem setCtrl_answers (c : Ctrl) : (setCtrl c s).answers = s.answers := rfl
@[simp] theorem setCtrl_draws (c : Ctrl) : (setCtrl c s).draws = s.draws := rfl

/-! `setLastCmd` writes lastCmd. -/

@[simp] theorem setLastCmd_cfg (b : Byte) : (setLastCmd b s).cfg = s.cfg := rfl
@[simp] theorem setLastCmd_buf (b : Byte) : (setLastCmd b s).buf = s.buf := rfl
@[simp] theorem setLastCmd_cursor (b : Byte) : (setLastCmd b s).cursor = s.cursor := rfl
@[simp] theorem setLastCmd_contrast (b : Byte) : (setLastCmd b s).contrast = s.contrast := rfl
@[simp] theorem setLastCmd_power (b : Byte) : (setLastCmd b s).power = s.power := rfl
@[simp] theorem setLastCmd_lastCmd (b : Byte) : (setLastCmd b s).lastCmd = some b := rfl
@[simp] theorem setLastCmd_lastResult (b : Byte) : (setLastCmd b s).lastResult = s.lastResult := rfl
@[simp] theorem setLastCmd_ctrl (b : Byte) : (setLastCmd b s).ctrl = s.ctrl := rfl
@[simp] theorem setLastCmd_clk (b : Byte) : (setLastCmd b s).clk = s.clk := rfl
@[simp] theorem setLastCmd_dio (b : Byte) : (setLastCmd b s).dio = s.dio := rfl
@[simp] theorem setLastCmd_fsm (b : Byte) : (setLastCmd b s).fsm = s.fsm := rfl
@[simp] theorem setLastCmd_bitCounter (b : Byte) : (setLastCmd b s).bitCounter = s.bitCounter := rfl
@[simp] theorem setLastCmd_txByte (b : Byte) : (setLastCmd b s).txByte = s.txByte := rfl
@[simp] theorem setLastCmd_fr (b : Byte) : (setLastCmd b s).fr = s.fr := rfl
@[simp] theorem setLastCmd_fault (b : Byte) : (setLastCmd b s).fault = s.fault := rfl
@[simp] theorem setLastCmd_trace (b : Byte) : (setLastCmd b s).trace = s.trace := rfl
@[simp] theorem setLastCmd_hostPending (b : Byte) : (setLastCmd b s).hostPending = s.hostPending := rfl
@[simp] theorem setLastCmd_hostIndex (b : Byte) : (setLastCmd b s).hostIndex = s.hostIndex := rfl
@[simp] theorem setLastCmd_responses (b : Byte) : (setLastCmd b s).responses = s.responses := rfl
@[simp] theorem setLastCmd_answers (b : Byte) : (setLastCmd b s).answers = s.answers := rfl
@[simp] theorem setLastCmd_draws (b : Byte) : (setLastCmd b s).draws = s.draws := rfl

/-! `setFsm` writes fsm. -/

@[simp] theorem setFsm_cfg (f : Fsm) : (setFsm f s).cfg = s.cfg := rfl
@[simp] theorem setFsm_buf (f : Fsm) : (setFsm f s).buf = s.buf := rfl
@[simp] theorem setFsm_cursor (f : Fsm) : (setFsm f s).cursor = s.cursor := rfl
@[simp] theorem setFsm_contrast (f : Fsm) : (setFsm f s).contrast = s.contrast := rfl
@[simp] theorem setFsm_power (f : Fsm) : (setFsm f s).power = s.power := rfl
@[simp] theorem setFsm_lastCmd (f : Fsm) : (setFsm f s).lastCmd = s.lastCmd := rfl
@[simp] theorem setFsm_lastResult (f : Fsm) : (setFsm f s).lastResult = s.lastResult := rfl
@[simp] theorem setFsm_ctrl (f : Fsm) : (setFsm f s).ctrl = s.ctrl := rfl
@[simp] theorem setFsm_clk (f : Fsm) : (setFsm f s).clk = s.clk := rfl
@[simp] theorem setFsm_dio (f : Fsm) : (setFsm f s).dio = s.dio := rfl
@[simp] theorem setFsm_fsm (f : Fsm) : (setFsm f s).fsm = f := rfl
@[simp] theorem setFsm_bitCounter (f : Fsm) : (setFsm f s).bitCounter = s.bitCounter := rfl
@[simp] theorem setFsm_txByte (f : Fsm) : (setFsm f s).txByte = s.txByte := rfl
@[simp] theorem setFsm_fr (f : Fsm) : (setFsm f s).fr = s.fr := rfl
@[simp] theorem setFsm_fault (f : Fsm) : (setFsm f s).fault = s.fault := rfl
@[simp] theorem setFsm_trace (f : Fsm) : (setFsm f s).trace = s.trace := rfl
@[simp] theorem setFsm_hostPending (f : Fsm) : (setFsm f s).hostPending = s.hostPending := rfl
@[simp] theorem setFsm_hostIndex (f : Fsm) : (setFsm f s).hostIndex = s.hostIndex := rfl
@[simp] theorem setFsm_responses (f : Fsm) : (setFsm f s).responses = s.responses := rfl
@[simp] theorem setFsm_answers (f : Fsm) : (setFsm f s).answers = s.answers := rfl
@[simp] theorem setFsm_draws (f : Fsm) : (setFsm f s).draws = s.draws := rfl

/-! `setFrameResult` writes fr. -/

@[simp] theorem setFrameResult_cfg (r : TransmissionResult) : (setFrameResult r s).cfg = s.cfg := rfl
@[simp] theorem setFrameResult_buf (r : TransmissionResult) : (setFrameResult r s).buf = s.buf := rfl
@[simp] theorem setFrameResult_cursor (r : TransmissionResult) : (setFrameResult r s).cursor = s.cursor := rfl
@[simp] theorem setFrameResult_contrast (r : TransmissionResult) : (setFrameResult r s).contrast = s.contrast := rfl
@[simp] theorem setFrameResult_power (r : TransmissionResult) : (setFrameResult r s).power = s.power := rfl
@[simp] theorem setFrameResult_lastCmd (r : TransmissionResult) : (setFrameResult r s).lastCmd = s.lastCmd := rfl
@[simp] theorem setFrameResult_lastResult (r : TransmissionResult) : (setFrameResult r s).lastResult = s.lastResult := rfl
@[simp] theorem setFrameResult_ctrl (r : TransmissionResult) : (setFrameResult r s).ctrl = s.ctrl := rfl
@[simp] theorem setFrameResult_clk (r : TransmissionResult) : (setFrameResult r s).clk = s.clk := rfl
@[simp] theorem setFrameResult_dio (r : TransmissionResult) : (setFrameResult r s).dio = s.dio := rfl
@[simp] theorem setFrameResult_fsm (r : TransmissionResult) : (setFrameResult r s).fsm = s.fsm := rfl
@[simp] theorem setFrameResult_bitCounter (r : TransmissionResult) : (setFrameResult r s).bitCounter = s.bitCounter := rfl
@[simp] theorem setFrameResult_txByte (r : TransmissionResult) : (setFrameResult r s).txByte = s.txByte := rfl
@[simp] theorem setFrameResult_fr (r : TransmissionResult) : (setFrameResult r s).fr = some r := rfl
@[simp] theorem setFrameResult_fault (r : TransmissionResult) : (setFrameResult r s).fault = s.fault := rfl
@[simp] theorem setFrameResult_trace (r : TransmissionResult) : (setFrameResult r s).trace = s.trace := rfl
@[simp] theorem setFrameResult_hostPending (r : TransmissionResult) : (setFrameResult r s).hostPending = s.hostPending := rfl
@[simp] theorem setFrameResult_hostIndex (r : TransmissionResult) : (setFrameResult r s).hostIndex = s.hostIndex := rfl
@[simp] theorem setFrameResult_responses (r : TransmissionResult) : (setFrameResult r s).responses = s.responses := rfl
@[simp] theorem setFrameResult_answers (r : TransmissionResult) : (setFrameResult r s).answers = s.answers := rfl
@[simp] theorem setFrameResult_draws (r : TransmissionResult) : (setFrameResult r s).draws = s.draws := rfl

/-! `emits` writes trace, clk, dio. -/

@[simp] theorem emits_cfg (es : List Event) : (emits es s).cfg = s.cfg := rfl
@[simp] theorem emits_buf (es : List Event) : (emits es s).buf = s.buf := rfl
@[simp] theorem emits_cursor (es : List Event) : (emits es s).cursor = s.cursor := rfl
@[simp] theorem emits_contrast (es : List Event) : (emits es s).contrast = s.contrast := rfl
@[simp] theorem emits_power (es : List Event) : (emits es s).power = s.power := rfl
@[simp] theorem emits_lastCmd (es : List Event) : (emits es s).lastCmd = s.lastCmd := rfl
@[simp] theorem emits_lastResult (es : List Event) : (emits es s).lastResult = s.lastResult := rfl
@[simp] theorem emits_ctrl (es : List Event) : (emits es s).ctrl = s.ctrl := rfl
@[simp] theorem emits_clk (es : List Event) : (emits es s).clk = es.foldl ClkLine.after s.clk := rfl
@[simp] theorem emits_dio (es : List Event) : (emits es s).dio = es.foldl DioLine.after s.dio := rfl
@[simp] theorem emits_fsm (es : List Event) : (emits es s).fsm = s.fsm := rfl
@[simp] theorem emits_bitCounter (es : List Event) : (emits es s).bitCounter = s.bitCounter := rfl
@[simp] theorem emits_txByte (es : List Event) : (emits es s).txByte = s.txByte := rfl
@[simp] theorem emits_fr (es : List Event) : (emits es s).fr = s.fr := rfl
@[simp] theorem emits_fault (es : List Event) : (emits es s).fault = s.fault := rfl
@[simp] theorem emits_trace (es : List Event) : (emits es s).trace = s.trace ++ es := rfl
@[simp] theorem emits_hostPending (es : List Event) : (emits es s).hostPending = s.hostPending := rfl
@[simp] theorem emits_hostIndex (es : List Event) : (emits es s).hostIndex = s.hostIndex := rfl
@[simp] theorem emits_responses (es : List Event) : (emits es s).responses = s.responses := rfl
@[simp] theorem emits_answers (es : List Event) : (emits es s).answers = s.answers := rfl
@[simp] theorem emits_draws (es : List Event) : (emits es s).draws = s.draws := rfl

/-! `raise` writes fault. -/

@[simp] theorem raise_cfg (f : EngineFault) : (raise f s).cfg = s.cfg := rfl
@[simp] theorem raise_buf (f : EngineFault) : (raise f s).buf = s.buf := rfl
@[simp] theorem raise_cursor (f : EngineFault) : (raise f s).cursor = s.cursor := rfl
@[simp] theorem raise_contrast (f : EngineFault) : (raise f s).contrast = s.contrast := rfl
@[simp] theorem raise_power (f : EngineFault) : (raise f s).power = s.power := rfl
@[simp] theorem raise_lastCmd (f : EngineFault) : (raise f s).lastCmd = s.lastCmd := rfl
@[simp] theorem raise_lastResult (f : EngineFault) : (raise f s).lastResult = s.lastResult := rfl
@[simp] theorem raise_ctrl (f : EngineFault) : (raise f s).ctrl = s.ctrl := rfl
@[simp] theorem raise_clk (f : EngineFault) : (raise f s).clk = s.clk := rfl
@[simp] theorem raise_dio (f : EngineFault) : (raise f s).dio = s.dio := rfl
@[simp] theorem raise_fsm (f : EngineFault) : (raise f s).fsm = s.fsm := rfl
@[simp] theorem raise_bitCounter (f : EngineFault) : (raise f s).bitCounter = s.bitCounter := rfl
@[simp] theorem raise_txByte (f : EngineFault) : (raise f s).txByte = s.txByte := rfl
@[simp] theorem raise_fr (f : EngineFault) : (raise f s).fr = s.fr := rfl
@[simp] theorem raise_fault (f : EngineFault) : (raise f s).fault = some f := rfl
@[simp] theorem raise_trace (f : EngineFault) : (raise f s).trace = s.trace := rfl
@[simp] theorem raise_hostPending (f : EngineFault) : (raise f s).hostPending = s.hostPending := rfl
@[simp] theorem raise_hostIndex (f : EngineFault) : (raise f s).hostIndex = s.hostIndex := rfl
@[simp] theorem raise_responses (f : EngineFault) : (raise f s).responses = s.responses := rfl
@[simp] theorem raise_answers (f : EngineFault) : (raise f s).answers = s.answers := rfl
@[simp] theorem raise_draws (f : EngineFault) : (raise f s).draws = s.draws := rfl

/-! `setPowerOnSuccess` writes power. -/

@[simp] theorem setPowerOnSuccess_cfg (p : Power) (r : TransmissionResult) : (setPowerOnSuccess p r s).cfg = s.cfg := rfl
@[simp] theorem setPowerOnSuccess_buf (p : Power) (r : TransmissionResult) : (setPowerOnSuccess p r s).buf = s.buf := rfl
@[simp] theorem setPowerOnSuccess_cursor (p : Power) (r : TransmissionResult) : (setPowerOnSuccess p r s).cursor = s.cursor := rfl
@[simp] theorem setPowerOnSuccess_contrast (p : Power) (r : TransmissionResult) : (setPowerOnSuccess p r s).contrast = s.contrast := rfl
@[simp] theorem setPowerOnSuccess_power (p : Power) (r : TransmissionResult) : (setPowerOnSuccess p r s).power = if r = .success then p else s.power := rfl
@[simp] theorem setPowerOnSuccess_lastCmd (p : Power) (r : TransmissionResult) : (setPowerOnSuccess p r s).lastCmd = s.lastCmd := rfl
@[simp] theorem setPowerOnSuccess_lastResult (p : Power) (r : TransmissionResult) : (setPowerOnSuccess p r s).lastResult = s.lastResult := rfl
@[simp] theorem setPowerOnSuccess_ctrl (p : Power) (r : TransmissionResult) : (setPowerOnSuccess p r s).ctrl = s.ctrl := rfl
@[simp] theorem setPowerOnSuccess_clk (p : Power) (r : TransmissionResult) : (setPowerOnSuccess p r s).clk = s.clk := rfl
@[simp] theorem setPowerOnSuccess_dio (p : Power) (r : TransmissionResult) : (setPowerOnSuccess p r s).dio = s.dio := rfl
@[simp] theorem setPowerOnSuccess_fsm (p : Power) (r : TransmissionResult) : (setPowerOnSuccess p r s).fsm = s.fsm := rfl
@[simp] theorem setPowerOnSuccess_bitCounter (p : Power) (r : TransmissionResult) : (setPowerOnSuccess p r s).bitCounter = s.bitCounter := rfl
@[simp] theorem setPowerOnSuccess_txByte (p : Power) (r : TransmissionResult) : (setPowerOnSuccess p r s).txByte = s.txByte := rfl
@[simp] theorem setPowerOnSuccess_fr (p : Power) (r : TransmissionResult) : (setPowerOnSuccess p r s).fr = s.fr := rfl
@[simp] theorem setPowerOnSuccess_fault (p : Power) (r : TransmissionResult) : (setPowerOnSuccess p r s).fault = s.fault := rfl
@[simp] theorem setPowerOnSuccess_trace (p : Power) (r : TransmissionResult) : (setPowerOnSuccess p r s).trace = s.trace := rfl
@[simp] theorem setPowerOnSuccess_hostPending (p : Power) (r : TransmissionResult) : (setPowerOnSuccess p r s).hostPending = s.hostPending := rfl
@[simp] theorem setPowerOnSuccess_hostIndex (p : Power) (r : TransmissionResult) : (setPowerOnSuccess p r s).hostIndex = s.hostIndex := rfl
@[simp] theorem setPowerOnSuccess_responses (p : Power) (r : TransmissionResult) : (setPowerOnSuccess p r s).responses = s.responses := rfl
@[simp] theorem setPowerOnSuccess_answers (p : Power) (r : TransmissionResult) : (setPowerOnSuccess p r s).answers = s.answers := rfl
@[simp] theorem setPowerOnSuccess_draws (p : Power) (r : TransmissionResult) : (setPowerOnSuccess p r s).draws = s.draws := rfl

/-! `recordResult` writes lastResult. -/

@[simp] theorem recordResult_cfg (r : TransmissionResult) : (recordResult r s).cfg = s.cfg := rfl
@[simp] theorem recordResult_buf (r : TransmissionResult) : (recordResult r s).buf = s.buf := rfl
@[simp] theorem recordResult_cursor (r : TransmissionResult) : (recordResult r s).cursor = s.cursor := rfl
@[simp] theorem recordResult_contrast (r : TransmissionResult) : (recordResult r s).contrast = s.contrast := rfl
@[simp] theorem recordResult_power (r : TransmissionResult) : (recordResult r s).power = s.power := rfl
@[simp] theorem recordResult_lastCmd (r : TransmissionResult) : (recordResult r s).lastCmd = s.lastCmd := rfl
@[simp] theorem recordResult_lastResult (r : TransmissionResult) : (recordResult r s).lastResult = some r := rfl
@[simp] theorem recordResult_ctrl (r : TransmissionResult) : (recordResult r s).ctrl = s.ctrl := rfl
@[simp] theorem recordResult_clk (r : TransmissionResult) : (recordResult r s).clk = s.clk := rfl
@[simp] theorem recordResult_dio (r : TransmissionResult) : (recordResult r s).dio = s.dio := rfl
@[simp] theorem recordResult_fsm (r : TransmissionResult) : (recordResult r s).fsm = s.fsm := rfl
@[simp] theorem recordResult_bitCounter (r : TransmissionResult) : (recordResult r s).bitCounter = s.bitCounter := rfl
@[simp] theorem recordResult_txByte (r : TransmissionResult) : (recordResult r s).txByte = s.txByte := rfl
@[simp] theorem recordResult_fr (r : TransmissionResult) : (recordResult r s).fr = s.fr := rfl
@[simp] theorem recordResult_fault (r : TransmissionResult) : (recordResult r s).fault = s.fault := rfl
@[simp] theorem recordResult_trace (r : TransmissionResult) : (recordResult r s).trace = s.trace := rfl
@[simp] theorem recordResult_hostPending (r : TransmissionResult) : (recordResult r s).hostPending = s.hostPending := rfl
@[simp] theorem recordResult_hostIndex (r : TransmissionResult) : (recordResult r s).hostIndex = s.hostIndex := rfl
@[simp] theorem recordResult_responses (r : TransmissionResult) : (recordResult r s).responses = s.responses := rfl
@[simp] theorem recordResult_answers (r : TransmissionResult) : (recordResult r s).answers = s.answers := rfl
@[simp] theorem recordResult_draws (r : TransmissionResult) : (recordResult r s).draws = s.draws := rfl

/-! `respond` writes fr, responses, hostIndex, hostPending. -/

@[simp] theorem respond_cfg (r : TransmissionResult) (d : Byte) : (respond r d s).cfg = s.cfg := rfl
@[simp] theorem respond_buf (r : TransmissionResult) (d : Byte) : (respond r d s).buf = s.buf := rfl
@[simp] theorem respond_cursor (r : TransmissionResult) (d : Byte) : (respond r d s).cursor = s.cursor := rfl
@[simp] theorem respond_contrast (r : TransmissionResult) (d : Byte) : (respond r d s).contrast = s.contrast := rfl
@[simp] theorem respond_power (r : TransmissionResult) (d : Byte) : (respond r d s).power = s.power := rfl
@[simp] theorem respond_lastCmd (r : TransmissionResult) (d : Byte) : (respond r d s).lastCmd = s.lastCmd := rfl
@[simp] theorem respond_lastResult (r : TransmissionResult) (d : Byte) : (respond r d s).lastResult = s.lastResult := rfl
@[simp] theorem respond_ctrl (r : TransmissionResult) (d : Byte) : (respond r d s).ctrl = s.ctrl := rfl
@[simp] theorem respond_clk (r : TransmissionResult) (d : Byte) : (respond r d s).clk = s.clk := rfl
@[simp] theorem respond_dio (r : TransmissionResult) (d : Byte) : (respond r d s).dio = s.dio := rfl
@[simp] theorem respond_fsm (r : TransmissionResult) (d : Byte) : (respond r d s).fsm = s.fsm := rfl
@[simp] theorem respond_bitCounter (r : TransmissionResult) (d : Byte) : (respond r d s).bitCounter = s.bitCounter := rfl
@[simp] theorem respond_txByte (r : TransmissionResult) (d : Byte) : (respond r d s).txByte = s.txByte := rfl
@[simp] theorem respond_fr (r : TransmissionResult) (d : Byte) : (respond r d s).fr = none := rfl
@[simp] theorem respond_fault (r : TransmissionResult) (d : Byte) : (respond r d s).fault = s.fault := rfl
@[simp] theorem respond_trace (r : TransmissionResult) (d : Byte) : (respond r d s).trace = s.trace := rfl
@[simp] theorem respond_hostPending (r : TransmissionResult) (d : Byte) : (respond r d s).hostPending = s.hostPending.drop 1 := rfl
@[simp] theorem respond_hostIndex (r : TransmissionResult) (d : Byte) : (respond r d s).hostIndex = s.hostIndex + 1 := rfl
@[simp] theorem respond_responses (r : TransmissionResult) (d : Byte) : (respond r d s).responses = s.responses ++ [responseWord r d] := rfl
@[simp] theorem respond_answers (r : TransmissionResult) (d : Byte) : (respond r d s).answers = s.answers := rfl
@[simp] theorem respond_draws (r : TransmissionResult) (d : Byte) : (respond r d s).draws = s.draws := rfl

/-! `respondResult` writes lastResult, fr, responses, hostIndex, hostPending. -/

@[simp] theorem respondResult_cfg (r : TransmissionResult) : (respondResult r s).cfg = s.cfg := rfl
@[simp] theorem respondResult_buf (r : TransmissionResult) : (respondResult r s).buf = s.buf := rfl
@[simp] theorem respondResult_cursor (r : TransmissionResult) : (respondResult r s).cursor = s.cursor := rfl
@[simp] theorem respondResult_contrast (r : TransmissionResult) : (respondResult r s).contrast = s.contrast := rfl
@[simp] theorem respondResult_power (r : TransmissionResult) : (respondResult r s).power = s.power := rfl
@[simp] theorem respondResult_lastCmd (r : TransmissionResult) : (respondResult r s).lastCmd = s.lastCmd := rfl
@[simp] theorem respondResult_lastResult (r : TransmissionResult) : (respondResult r s).lastResult = some r := rfl
@[simp] theorem respondResult_ctrl (r : TransmissionResult) : (respondResult r s).ctrl = s.ctrl := rfl
@[simp] theorem respondResult_clk (r : TransmissionResult) : (respondResult r s).clk = s.clk := rfl
@[simp] theorem respondResult_dio (r : TransmissionResult) : (respondResult r s).dio = s.dio := rfl
@[simp] theorem respondResult_fsm (r : TransmissionResult) : (respondResult r s).fsm = s.fsm := rfl
@[simp] theorem respondResult_bitCounter (r : TransmissionResult) : (respondResult r s).bitCounter = s.bitCounter := rfl
@[simp] theorem respondResult_txByte (r : TransmissionResult) : (respondResult r s).txByte = s.txByte := rfl
@[simp] theorem respondResult_fr (r : TransmissionResult) : (respondResult r s).fr = none := rfl
@[simp] theorem respondResult_fault (r : TransmissionResult) : (respondResult r s).fault = s.fault := rfl
@[simp] theorem respondResult_trace (r : TransmissionResult) : (respondResult r s).trace = s.trace := rfl
@[simp] theorem respondResult_hostPending (r : TransmissionResult) : (respondResult r s).hostPending = s.hostPending.drop 1 := rfl
@[simp] theorem respondResult_hostIndex (r : TransmissionResult) : (respondResult r s).hostIndex = s.hostIndex + 1 := rfl
@[simp] theorem respondResult_responses (r : TransmissionResult) : (respondResult r s).responses = s.responses ++ [responseWord r 0] := rfl
@[simp] theorem respondResult_answers (r : TransmissionResult) : (respondResult r s).answers = s.answers := rfl
@[simp] theorem respondResult_draws (r : TransmissionResult) : (respondResult r s).draws = s.draws := rfl

/-! `finishBusCommand` writes fr, hostPending. -/

@[simp] theorem finishBusCommand_cfg : (finishBusCommand s).cfg = s.cfg := rfl
@[simp] theorem finishBusCommand_buf : (finishBusCommand s).buf = s.buf := rfl
@[simp] theorem finishBusCommand_cursor : (finishBusCommand s).cursor = s.cursor := rfl
@[simp] theorem finishBusCommand_contrast : (finishBusCommand s).contrast = s.contrast := rfl
@[simp] theorem finishBusCommand_power : (finishBusCommand s).power = s.power := rfl
@[simp] theorem finishBusCommand_lastCmd : (finishBusCommand s).lastCmd = s.lastCmd := rfl
@[simp] theorem finishBusCommand_lastResult : (finishBusCommand s).lastResult = s.lastResult := rfl
@[simp] theorem finishBusCommand_ctrl : (finishBusCommand s).ctrl = s.ctrl := rfl
@[simp] theorem finishBusCommand_clk : (finishBusCommand s).clk = s.clk := rfl
@[simp] theorem finishBusCommand_dio : (finishBusCommand s).dio = s.dio := rfl
@[simp] theorem finishBusCommand_fsm : (finishBusCommand s).fsm = s.fsm := rfl
@[simp] theorem finishBusCommand_bitCounter : (finishBusCommand s).bitCounter = s.bitCounter := rfl
@[simp] theorem finishBusCommand_txByte : (finishBusCommand s).txByte = s.txByte := rfl
@[simp] theorem finishBusCommand_fr : (finishBusCommand s).fr = none := rfl
@[simp] theorem finishBusCommand_fault : (finishBusCommand s).fault = s.fault := rfl
@[simp] theorem finishBusCommand_trace : (finishBusCommand s).trace = s.trace := rfl
@[simp] theorem finishBusCommand_hostPending : (finishBusCommand s).hostPending = s.hostPending.drop 1 := rfl
@[simp] theorem finishBusCommand_hostIndex : (finishBusCommand s).hostIndex = s.hostIndex := rfl
@[simp] theorem finishBusCommand_responses : (finishBusCommand s).responses = s.responses := rfl
@[simp] theorem finishBusCommand_answers : (finishBusCommand s).answers = s.answers := rfl
@[simp] theorem finishBusCommand_draws : (finishBusCommand s).draws = s.draws := rfl

/-! `presentItem` writes hostPending, fault. -/

@[simp] theorem presentItem_cfg (item : PortItem) : (presentItem item s).cfg = s.cfg := rfl
@[simp] theorem presentItem_buf (item : PortItem) : (presentItem item s).buf = s.buf := rfl
@[simp] theorem presentItem_cursor (item : PortItem) : (presentItem item s).cursor = s.cursor := rfl
@[simp] theorem presentItem_contrast (item : PortItem) : (presentItem item s).contrast = s.contrast := rfl
@[simp] theorem presentItem_power (item : PortItem) : (presentItem item s).power = s.power := rfl
@[simp] theorem presentItem_lastCmd (item : PortItem) : (presentItem item s).lastCmd = s.lastCmd := rfl
@[simp] theorem presentItem_lastResult (item : PortItem) : (presentItem item s).lastResult = s.lastResult := rfl
@[simp] theorem presentItem_ctrl (item : PortItem) : (presentItem item s).ctrl = s.ctrl := rfl
@[simp] theorem presentItem_clk (item : PortItem) : (presentItem item s).clk = s.clk := rfl
@[simp] theorem presentItem_dio (item : PortItem) : (presentItem item s).dio = s.dio := rfl
@[simp] theorem presentItem_fsm (item : PortItem) : (presentItem item s).fsm = s.fsm := rfl
@[simp] theorem presentItem_bitCounter (item : PortItem) : (presentItem item s).bitCounter = s.bitCounter := rfl
@[simp] theorem presentItem_txByte (item : PortItem) : (presentItem item s).txByte = s.txByte := rfl
@[simp] theorem presentItem_fr (item : PortItem) : (presentItem item s).fr = s.fr := rfl
@[simp] theorem presentItem_fault (item : PortItem) : (presentItem item s).fault = none := rfl
@[simp] theorem presentItem_trace (item : PortItem) : (presentItem item s).trace = s.trace := rfl
@[simp] theorem presentItem_hostPending (item : PortItem) : (presentItem item s).hostPending = item :: s.hostPending.drop 1 := rfl
@[simp] theorem presentItem_hostIndex (item : PortItem) : (presentItem item s).hostIndex = s.hostIndex := rfl
@[simp] theorem presentItem_responses (item : PortItem) : (presentItem item s).responses = s.responses := rfl
@[simp] theorem presentItem_answers (item : PortItem) : (presentItem item s).answers = s.answers := rfl
@[simp] theorem presentItem_draws (item : PortItem) : (presentItem item s).draws = s.draws := rfl

end Sys2Proof.Machine
end

