-- ==== Sys2Proof/Laws/Buffer.lean ====
section
/-! SUPPORT. What the buffer operations, the font lookup and the gathering do, said once per operation, and that they keep
the form of `BUF` (10_state.md R21). -/

namespace Sys2Proof.Machine

theorem digitsMapped_getElem? (s : State) (p : Nat → Bool) (f : Byte → Byte) (j : Nat) :
    (digitsMapped s p f)[j]? = s.buf[j]?.map (fun b => if j < s.cfg.digits ∧ p j then f b else b) := by
  simp [digitsMapped, List.getElem?_mapIdx]

/-- `updateDigit` changes the one digit in bounds, and no other byte. -/
theorem updateDigit_eq (i : Nat) (f : Byte → Byte) (s : State) :
    updateDigit i f s = { s with buf := digitsMapped s (· = i) f } := by
  unfold updateDigit
  congr 1
  apply List.ext_getElem?
  intro j
  rw [digitsMapped_getElem?]
  by_cases hi : inBounds i s
  · rw [if_pos hi, Memory.update, List.getElem?_modify]
    by_cases hj : i = j
    · subst hj
      simp [hi]
    · simp [hj, Ne.symm hj]
  · rw [if_neg hi]
    by_cases hj : j = i
    · subst hj
      simp [hi]
    · simp [hj]

/-- `BUF` keeps its form under every update of a digit. -/
theorem updateDigit_wf (i : Nat) (f : Byte → Byte) (s : State) (n : Nat) (h : Memory.wf n s.buf) :
    Memory.wf n (updateDigit i f s).buf := by
  simp only [Memory.wf, updateDigit, Memory.update] at h ⊢
  split <;> simp [h]

theorem setSegmentsFrom_eq (mask : Byte) (n lo : Nat) (s : State) :
    setSegmentsFrom mask n lo s =
      { s with buf := digitsMapped s (fun i => decide (lo ≤ i ∧ i < lo + n)) (withSegments mask) } := by
  induction n generalizing lo s with
  | zero =>
    have h : digitsMapped s (fun i => decide (lo ≤ i ∧ i < lo + 0)) (withSegments mask) = s.buf := by
      apply List.ext_getElem?
      intro j
      rw [digitsMapped_getElem?]
      have : ¬ (j < s.cfg.digits ∧ decide (lo ≤ j ∧ j < lo + 0) = true) := by
        rw [decide_eq_true_eq]
        omega
      simp only [if_neg this, Option.map_id']
    rw [h]
    rfl
  | succ n ih =>
    rw [setSegmentsFrom, ih, setSegments, updateDigit_eq]
    congr 1
    apply List.ext_getElem?
    intro j
    simp only [digitsMapped_getElem?, Option.map_map]
    congr 1
    funext b
    by_cases h1 : j < s.cfg.digits <;> by_cases h2 : j = lo <;> by_cases h3 : lo + 1 ≤ j ∧ j < lo + 1 + n <;>
      by_cases h4 : lo ≤ j ∧ j < lo + (n + 1) <;> simp [h1, h2, h3, h4] <;> omega

/-- Everything `fillSegments` does (R145). -/
theorem fillSegments_eq (mask : Byte) (start stop : Nat) (s : State) :
    fillSegments mask start stop s =
      if min start stop ≤ min (max start stop) (s.cfg.digits - 1) then
        { s with
          buf := digitsMapped s
            (fun i => decide (min start stop ≤ i) && decide (i ≤ min (max start stop) (s.cfg.digits - 1)))
            (withSegments mask)
          cursor := BitVec.ofNat 3 (min (max start stop) (s.cfg.digits - 1)) }
      else s := by
  have h : orderedRange start stop = (min start stop, max start stop) := by
    unfold orderedRange
    split <;> simp only [Prod.mk.injEq] <;> omega
  unfold fillSegments
  simp only [h]
  split
  · rename_i hle
    rw [setSegmentsFrom_eq, setCursor]
    congr 1
    change digitsMapped _ _ _ = _
    congr 1
    funext i
    have : min start stop + (min (max start stop) (s.cfg.digits - 1) + 1 - min start stop) =
      min (max start stop) (s.cfg.digits - 1) + 1 := by omega
    rw [this, Bool.decide_and]
    simp
  · rfl

/-- Glyph writing touches `BUF` and `CURSOR` alone. -/
theorem writeChar_frame (code : Byte) (s : State) :
    (writeChar code s).1 = { s with buf := (writeChar code s).1.buf, cursor := (writeChar code s).1.cursor } := by
  unfold writeChar
  split
  · rfl
  · split
    · rfl
    · unfold writeUnresolved
      split <;> rfl

theorem writeString_frame (str : List Byte) (s : State) :
    (writeString str s).1 =
      { s with buf := (writeString str s).1.buf, cursor := (writeString str s).1.cursor } := by
  induction str generalizing s with
  | nil => rfl
  | cons c rest ih =>
    simp only [writeString]
    rw [ih (writeChar c s).1, writeChar_frame c s]

theorem writeChar_count (code : Byte) (s : State) : (writeChar code s).2 ≤ 1 := by
  unfold writeChar writeUnresolved
  repeat' split
  all_goals simp

theorem writeString_count (str : List Byte) (s : State) : (writeString str s).2 ≤ str.length := by
  induction str generalizing s with
  | nil => exact Nat.le_refl 0
  | cons c rest ih =>
    have h1 := writeChar_count c s
    have h2 := ih (writeChar c s).1
    simp only [writeString, List.length_cons]
    omega

/-- Glyph writing keeps the form of `BUF` and the range of `CURSOR` (R23), with a configuration in range. -/
theorem writeChar_shape (code : Byte) (s : State) (hc : s.cfg.valid) (hb : Memory.wf s.cfg.digits s.buf)
    (hcur : s.cursor.toNat ≤ s.cfg.digits) :
    Memory.wf s.cfg.digits (writeChar code s).1.buf ∧ (writeChar code s).1.cursor.toNat ≤ s.cfg.digits := by
  have hv := hc.2
  unfold writeChar
  split
  · exact ⟨hb, hcur⟩
  · rename_i hlt
    split
    · refine ⟨updateDigit_wf _ _ _ _ hb, ?_⟩
      simp only [writeGlyph, setCursor_cursor, BitVec.toNat_ofNat]
      omega
    · unfold writeUnresolved
      split
      · exact ⟨updateDigit_wf _ _ _ _ hb, hcur⟩
      · exact ⟨hb, hcur⟩

theorem writeString_shape (str : List Byte) (s : State) (hc : s.cfg.valid) (hb : Memory.wf s.cfg.digits s.buf)
    (hcur : s.cursor.toNat ≤ s.cfg.digits) :
    Memory.wf s.cfg.digits (writeString str s).1.buf ∧ (writeString str s).1.cursor.toNat ≤ s.cfg.digits := by
  induction str generalizing s with
  | nil => exact ⟨hb, hcur⟩
  | cons c rest ih =>
    have h := writeChar_shape c s hc hb hcur
    have hcfg : (writeChar c s).1.cfg = s.cfg := by rw [writeChar_frame]
    simp only [writeString]
    rw [← hcfg] at h hc ⊢
    exact ih _ hc h.1 h.2

/-- The lookup finds exactly the first entry's mask (R130). -/
theorem lookup_eq_some_iff (font : Memory) (code mask : Byte) :
    lookup code font = some mask ↔ FontFinds font code mask := by
  induction font using lookup.induct code with
  | case1 raw rest =>
    simp only [lookup, if_true, Option.some.injEq]
    constructor
    · intro h
      exact ⟨0, raw, by simp only [List.length_cons]; omega, rfl, by simp, rfl, h.symm⟩
    · rintro ⟨k, r, _, hk, hj, hr, hm⟩
      cases k with
      | zero => simp at hr; rw [hm, hr]
      | succ k => exact absurd rfl (hj 0 (by omega))
  | case2 entryCode raw rest hne ih =>
    rw [lookup, if_neg hne, ih]
    constructor
    · rintro ⟨k, r, hlen, hk, hj, hr, hm⟩
      refine ⟨k + 1, r, by simp only [List.length_cons]; omega, ?_, ?_, ?_, hm⟩
      · simpa [Nat.mul_add] using hk
      · intro j hjk
        cases j with
        | zero => simpa using hne
        | succ j => simpa [Nat.mul_add] using hj j (by omega)
      · simpa [Nat.mul_add] using hr
    · rintro ⟨k, r, hlen, hk, hj, hr, hm⟩
      cases k with
      | zero => exact absurd (by simpa using hk) hne
      | succ k =>
        refine ⟨k, r, by simp only [List.length_cons] at hlen; omega, ?_, ?_, ?_, hm⟩
        · simpa [Nat.mul_add] using hk
        · intro j hjk
          simpa [Nat.mul_add] using hj (j + 1) (by omega)
        · simpa [Nat.mul_add] using hr
  | case3 x => exact ⟨fun h => by simp [lookup] at h, fun ⟨k, _, h, _⟩ => by simp at h⟩
  | case4 => exact ⟨fun h => by simp [lookup] at h, fun ⟨k, _, h, _⟩ => by simp at h⟩

theorem lookup_eq_none_iff (font : Memory) (code : Byte) : lookup code font = none ↔ FontLacks font code := by
  induction font using lookup.induct code with
  | case1 raw rest =>
    simp only [lookup, if_true, reduceCtorEq, false_iff]
    exact fun h => h 0 (by simp only [List.length_cons]; omega) rfl
  | case2 entryCode raw rest hne ih =>
    rw [lookup, if_neg hne, ih]
    constructor
    · intro h k hk
      cases k with
      | zero => simpa using hne
      | succ k => simpa [Nat.mul_add] using h k (by simp only [List.length_cons] at hk; omega)
    · intro h k hk
      simpa [Nat.mul_add] using h (k + 1) (by simp only [List.length_cons]; omega)
  | case3 x => exact ⟨fun _ k h => by simp at h, fun _ => rfl⟩
  | case4 => exact ⟨fun _ k h => by simp at h, fun _ => rfl⟩

/-- A found mask has bit 7 clear (R132). -/
theorem lookup_radix_clear (font : Memory) (code mask : Byte) (h : lookup code font = some mask) :
    mask.getLsbD 7 = false := by
  obtain ⟨_, raw, _, _, _, _, rfl⟩ := (lookup_eq_some_iff font code mask).mp h
  simp

end Sys2Proof.Machine
end

