-- ==== Sys2Proof/Laws/Bus.lean ====
section
/-! SUPPORT. What the bus primitives and the frame do, said once: one equation per operation (42_protocol.md). -/

namespace Sys2Proof.Machine

/-- The events of ByteOut (R181). -/
def byteEvents (b : Byte) : List Event :=
  .clk false :: [0, 1, 2, 3, 4, 5, 6, 7].flatMap (fun k => [.dio (b.getLsbD k), .clk true, .clk false])

/-- The events of AckWait (R182). -/
def ackEvents (a : Answer) : List Event := [.rel, .clk true, .poll a, .clk false]

/-- The events of the bytes of a frame. -/
def bytesEvents (sent : List (Byte × Answer)) : List Event :=
  sent.flatMap (fun x => byteEvents x.1 ++ ackEvents x.2)

/-- The events of a frame, from Start to Stop (R185). -/
def frameEvents (sent : List (Byte × Answer)) : List Event :=
  [.dio true, .clk true, .dio false] ++ bytesEvents sent ++ [.clk false, .dio false, .clk true, .dio true]

theorem byteEvents_length (b : Byte) : (byteEvents b).length = 25 := rfl

@[simp] theorem bytesEvents_nil : bytesEvents [] = [] := rfl

@[simp] theorem bytesEvents_cons (x : Byte × Answer) (rest : List (Byte × Answer)) :
    bytesEvents (x :: rest) = byteEvents x.1 ++ ackEvents x.2 ++ bytesEvents rest := rfl

@[simp] theorem resultOf_nil : resultOf [] = .success := rfl

@[simp] theorem resultOf_ack (b : Byte) (rest : List (Byte × Answer)) :
    resultOf ((b, .ack) :: rest) = resultOf rest := rfl

@[simp] theorem resultOf_nak (b : Byte) (rest : List (Byte × Answer)) :
    resultOf ((b, .nak) :: rest) = .acknowledgeTimeoutError := rfl

theorem bytesEvents_length (sent : List (Byte × Answer)) : (bytesEvents sent).length = 29 * sent.length := by
  induction sent with
  | nil => rfl
  | cons x rest ih =>
    rw [bytesEvents_cons, List.length_append, ih, List.length_append, byteEvents_length, List.length_cons]
    simp only [ackEvents, List.length_cons, List.length_nil]
    omega

theorem frameEvents_length (sent : List (Byte × Answer)) : (frameEvents sent).length = 7 + 29 * sent.length := by
  simp only [frameEvents, List.length_append, bytesEvents_length, List.length_cons, List.length_nil]
  omega

theorem drawAck_answer (s : State) : (drawAck s).2 = answerAt s 0 := by
  cases h : s.answers <;> simp [drawAck, answerAt, h]

theorem drawAck_state (s : State) :
    (drawAck s).1 = { s with answers := s.answers.drop 1, draws := s.draws + 1 } := by
  cases h : s.answers with
  | nil => unfold drawAck; rw [h]; simp only [List.drop_nil]
  | cons a rest => simp [drawAck, h]

/-- The answers after one draw are the later answers. -/
theorem answerAt_after_draw (s t : State) (k : Nat) (ha : t.answers = s.answers.drop 1)
    (hd : t.draws = s.draws + 1) : answerAt t k = answerAt s (k + 1) := by
  simp only [answerAt, ha, hd, List.getElem?_drop, Nat.add_comm 1 k]
  have h : s.draws + 1 + k = s.draws + (k + 1) := by omega
  rw [h]

theorem startFrame_eq (s : State) :
    startFrame s = { s with
      fsm := .start, clk := .driven true, dio := .driven false,
      trace := s.trace ++ [.dio true, .clk true, .dio false] } := rfl

theorem byteOut_eq (b : Byte) (s : State) :
    byteOut b s = { s with
      fsm := .byteOut, bitCounter := none, txByte := none, clk := .driven false
      dio := .driven (b.getLsbD 7), trace := s.trace ++ byteEvents b } := by
  simp [byteOut, bitOut, emits, setFsm, byteEvents, ClkLine.after, DioLine.after]

theorem ackWait_answer (s : State) : (ackWait s).2 = answerAt s 0 := by
  simp only [ackWait, drawAck_answer]; rfl

theorem ackWait_state (s : State) :
    (ackWait s).1 = { s with
      fsm := .ackWait, clk := .driven false, dio := .released
      trace := s.trace ++ ackEvents (answerAt s 0)
      answers := s.answers.drop 1, draws := s.draws + 1 } := by
  have h : (drawAck (emits [.rel, .clk true] (setFsm .ackWait s))).2 = answerAt s 0 := by
    rw [drawAck_answer]; rfl
  simp only [ackWait, h, drawAck_state]
  simp [emits, setFsm, ackEvents, ClkLine.after, DioLine.after]

theorem stopFrame_eq (s : State) :
    stopFrame s = { s with
      fsm := .idle, clk := .driven true, dio := .driven true
      trace := s.trace ++ [.clk false, .dio false, .clk true, .dio true] } := rfl

/-- Where the running result stands after one byte. -/
theorem sendByte_eq (b : Byte) (s : State) :
    sendByte b s = { s with
      fsm := .ackWait, bitCounter := none, txByte := none
      fr := if answerAt s 0 = .nak then some .acknowledgeTimeoutError else s.fr
      clk := .driven false, dio := .released
      trace := s.trace ++ bytesEvents [(b, answerAt s 0)]
      answers := s.answers.drop 1, draws := s.draws + 1 } := by
  have h : answerAt (byteOut b s) 0 = answerAt s 0 := by rw [byteOut_eq]; rfl
  unfold sendByte
  simp only [ackWait_answer, h, ackWait_state]
  cases ha : answerAt s 0 <;> simp [byteOut_eq, setFrameResult, bytesEvents]

/-- The byte loop on a frame that has met no `nak`: it sends the transcript of its bytes. -/
theorem sendBytes_eq (bytes : List Byte) (s : State) (b : Byte) (hfr : s.fr = some .success) :
    sendBytes (b :: bytes) s = { s with
      fsm := .ackWait, bitCounter := none, txByte := none
      fr := some (resultOf (transcript (answerAt s) (b :: bytes)))
      clk := .driven false, dio := .released
      trace := s.trace ++ bytesEvents (transcript (answerAt s) (b :: bytes))
      answers := s.answers.drop (transcript (answerAt s) (b :: bytes)).length
      draws := s.draws + (transcript (answerAt s) (b :: bytes)).length } := by
  induction bytes generalizing s b with
  | nil =>
    have hb : sendBytes [b] s = sendByte b s := by simp only [sendBytes]; split <;> rfl
    rw [hb, sendByte_eq]
    cases ha : answerAt s 0 <;> simp [transcript, ha, resultOf, hfr]
  | cons c rest ih =>
    rw [sendBytes, sendByte_eq]
    cases ha : answerAt s 0 with
    | nak => simp [frameResult, transcript, ha, resultOf]
    | ack =>
      have later : (fun k => answerAt s (k + 1)) = answerAt (sendByte b s) :=
        funext fun k => (answerAt_after_draw s _ k (by rw [sendByte_eq]) (by rw [sendByte_eq])).symm
      have ht : transcript (answerAt s) (b :: c :: rest) =
          (b, .ack) :: transcript (answerAt (sendByte b s)) (c :: rest) := by
        rw [transcript, ha, later]
      have hs : { s with
          fsm := .ackWait, bitCounter := none, txByte := none, clk := .driven false, dio := .released
          trace := s.trace ++ bytesEvents [(b, .ack)]
          answers := s.answers.drop 1, draws := s.draws + 1 } = sendByte b s := by
        rw [sendByte_eq]; simp [ha]
      simp only [frameResult, hfr, Option.getD_some, reduceCtorEq, if_false]
      rw [← hfr, hs, ih (sendByte b s) c (by rw [sendByte_eq]; simp [ha, hfr]), ht]
      generalize transcript (answerAt (sendByte b s)) (c :: rest) = sent
      rw [sendByte_eq]
      simp only [ha, resultOf_ack, List.append_assoc, List.drop_drop, List.length_cons,
        Nat.add_assoc, Nat.add_comm 1, bytesEvents_cons, bytesEvents_nil, List.append_nil]

/-- Everything a frame does (R184): its transcript goes out between Start and Stop, and both lines end idle-high. -/
theorem frame_eq (cmd : Byte) (data : List Byte) (s : State) :
    frame cmd data s = { s with
      lastCmd := some cmd, fsm := .idle, bitCounter := none, txByte := none
      fr := some (resultOf (transcript (answerAt s) (cmd :: data)))
      clk := .driven true, dio := .driven true
      trace := s.trace ++ frameEvents (transcript (answerAt s) (cmd :: data))
      answers := s.answers.drop (transcript (answerAt s) (cmd :: data)).length
      draws := s.draws + (transcript (answerAt s) (cmd :: data)).length } := by
  have h : ∀ k, answerAt (startFrame (setFrameResult .success (setLastCmd cmd s))) k = answerAt s k := fun _ => rfl
  unfold frame
  rw [sendBytes_eq _ _ _ rfl, stopFrame_eq, funext h]
  simp [startFrame_eq, setFrameResult, setLastCmd, frameEvents]

@[simp] theorem frameResult_frame (cmd : Byte) (data : List Byte) (s : State) :
    frameResult (frame cmd data s) = resultOf (transcript (answerAt s) (cmd :: data)) := by
  rw [frame_eq]; rfl

end Sys2Proof.Machine
end

