-- ==== Sys2Proof/Laws/Decode.lean ====
section
/-! SUPPORT. The fields of a packed request word (30_encoding.md R90), and of the bus command bytes (R103 to R105). -/

namespace Sys2Proof

/-- Bit `i` of a packed word, by the byte it falls in. -/
theorem packWord_getLsbD (op a b c : Byte) (i : Nat) :
    (packWord op a b c).getLsbD i =
      if i < 8 then c.getLsbD i else if i - 8 < 8 then b.getLsbD (i - 8)
      else if i - 8 - 8 < 8 then a.getLsbD (i - 8 - 8) else op.getLsbD (i - 8 - 8 - 8) := by
  have h : (packWord op a b c).getLsbD i = (op ++ a ++ b ++ c : BitVec (8 + 8 + 8 + 8)).getLsbD i := rfl
  rw [h, BitVec.getLsbD_append, BitVec.getLsbD_append, BitVec.getLsbD_append]

@[simp] theorem opField_packWord (op a b c : Byte) : opField (packWord op a b c) = op := by
  apply BitVec.eq_of_getLsbD_eq
  intro i hi
  simp [opField, packWord_getLsbD, hi, show ¬ 24 + i < 8 by omega, show ¬ 24 + i - 8 < 8 by omega,
    show ¬ 24 + i - 8 - 8 < 8 by omega, show 24 + i - 8 - 8 - 8 = i by omega]

@[simp] theorem aField_packWord (op a b c : Byte) : aField (packWord op a b c) = a := by
  apply BitVec.eq_of_getLsbD_eq
  intro i hi
  simp [aField, packWord_getLsbD, hi, show ¬ 16 + i < 8 by omega, show ¬ 16 + i - 8 < 8 by omega,
    show 16 + i - 8 - 8 = i by omega]

@[simp] theorem bField_packWord (op a b c : Byte) : bField (packWord op a b c) = b := by
  apply BitVec.eq_of_getLsbD_eq
  intro i hi
  simp [bField, packWord_getLsbD, hi, show ¬ 8 + i < 8 by omega, show 8 + i - 8 = i by omega]

@[simp] theorem cField_packWord (op a b c : Byte) : cField (packWord op a b c) = c := by
  apply BitVec.eq_of_getLsbD_eq
  intro i hi
  simp [cField, packWord_getLsbD, hi]

@[simp] theorem rFlag_packWord (op a b c : Byte) : rFlag (packWord op a b c) = c.getLsbD 0 := by
  rw [rFlag, packWord_getLsbD]
  rfl

theorem decode_dataCommandByte : ∀ (reserved : BitVec 2) (test fixed : Bool) (rw : BitVec 2),
    decodeBusCommand (dataCommandByte reserved test fixed rw) = .ok (.busDataCmd reserved test fixed rw) := by decide

theorem decode_displayCommandByte : ∀ (reserved : BitVec 2) (on : Bool) (contrast : BitVec 3),
    decodeBusCommand (displayCommandByte reserved on contrast) = .ok (.busDisplayCtrl reserved on contrast) := by
  decide

theorem decode_addressCommandByte : ∀ (reserved : BitVec 2) (addr : BitVec 4),
    decodeBusCommand (addressCommandByte reserved addr) = .ok (.busAddress reserved addr) := by decide

end Sys2Proof
end

