-- ==== Sys2Proof/Laws/Gather.lean ====
section
/-! SUPPORT. What the gathering of data bytes does (42_protocol.md R190, 60_exceptions.md R265). -/

namespace Sys2Proof.Machine

theorem gatherByte_eq_bytes_iff (buf : Memory) (src : Nat) (rest : Gathered) (data : List Byte) :
    gatherByte buf src rest = .bytes data ↔ ∃ b more, buf[src]? = some b ∧ rest = .bytes more ∧ data = b :: more := by
  unfold gatherByte Memory.read
  cases h : buf[src]? with
  | none => simp
  | some b => cases rest <;> simp [Gathered.cons, eq_comm]

/-- Every byte there: `gatherPlain` is the bytes in order. -/
theorem gatherPlain_bytes (buf : Memory) (n i : Nat) (h : i + n ≤ buf.length) :
    ∃ data, gatherPlain buf n i = .bytes data ∧ data.length = n ∧ ∀ k, k < n → data[k]? = buf[i + k]? := by
  induction n generalizing i with
  | zero => exact ⟨[], rfl, rfl, by simp⟩
  | succ n ih =>
    obtain ⟨data, hd, hl, hk⟩ := ih (i + 1) (by omega)
    refine ⟨buf[i]'(by omega) :: data, ?_, by simp [hl], ?_⟩
    · rw [gatherPlain, hd, gatherByte, Memory.read, List.getElem?_eq_getElem (by omega)]
      rfl
    · intro k hlt
      cases k with
      | zero => simp [List.getElem?_eq_getElem (show i < buf.length by omega)]
      | succ k => simpa [Nat.add_assoc, Nat.add_comm 1] using hk k (by omega)

/-- No problem iff every entry that is read is there and below `DIGITS`. -/
theorem reorderProblem_eq_none_iff (digits : Nat) (table : Memory) (n i : Nat) :
    reorderProblem digits table n i = none ↔
      ∀ k, k < n → ∃ e, table[i + k]? = some e ∧ e.toNat < digits := by
  induction n generalizing i with
  | zero => simp [reorderProblem]
  | succ n ih =>
    rw [reorderProblem, Memory.read]
    cases h : table[i]? with
    | none =>
      simp only [reduceCtorEq, false_iff]
      intro hall
      obtain ⟨e, he, _⟩ := hall 0 (by omega)
      simp [h] at he
    | some e =>
      by_cases he : e.toNat < digits
      · simp only [he, if_true, ih]
        constructor
        · intro hall k hk
          cases k with
          | zero => exact ⟨e, by simpa using h, he⟩
          | succ k => simpa [Nat.add_assoc, Nat.add_comm 1] using hall k (by omega)
        · intro hall k hk
          simpa [Nat.add_assoc, Nat.add_comm 1] using hall (k + 1) (by omega)
      · simp only [he, if_false, reduceCtorEq, false_iff]
        intro hall
        obtain ⟨e', he', hlt⟩ := hall 0 (by omega)
        simp only [Nat.add_zero, h, Option.some.injEq] at he'
        exact he (he' ▸ hlt)

/-- The least entry out of range is the one reported (R267). -/
theorem reorderProblem_bad (digits : Nat) (table : Memory) (n i k : Nat) (entry : Byte) (hk : k < n)
    (he : table[i + k]? = some entry) (hbad : digits ≤ entry.toNat)
    (hfirst : ∀ j, j < k → ∃ e, table[i + j]? = some e ∧ e.toNat < digits) :
    reorderProblem digits table n i = some (.badReorder (i + k)) := by
  induction n generalizing i k with
  | zero => omega
  | succ n ih =>
    rw [reorderProblem, Memory.read]
    cases k with
    | zero =>
      rw [Nat.add_zero] at he
      simp only [he, Nat.not_lt.mpr hbad, if_false, Nat.add_zero]
    | succ k =>
      obtain ⟨e, h0, hlt⟩ := hfirst 0 (by omega)
      rw [Nat.add_zero] at h0
      simp only [h0, hlt, if_true]
      have harith : i + (k + 1) = i + 1 + k := by omega
      rw [harith]
      refine ih (i + 1) k (by omega) (harith ▸ he) fun j hj => ?_
      have := hfirst (j + 1) (by omega)
      rwa [show i + (j + 1) = i + 1 + j by omega] at this

/-- With every entry supplied, a problem is a bad entry. -/
theorem reorderProblem_supplied (digits : Nat) (table : Memory) (n i : Nat) (h : i + n ≤ table.length)
    (g : Gathered) (hg : reorderProblem digits table n i = some g) : ∃ k, g = .badReorder k := by
  induction n generalizing i with
  | zero => simp [reorderProblem] at hg
  | succ n ih =>
    rw [reorderProblem, Memory.read, List.getElem?_eq_getElem (by omega)] at hg
    simp only at hg
    split at hg
    · exact ih (i + 1) (by omega) hg
    · exact ⟨i, by simpa using hg.symm⟩

/-- Every entry and byte there: `gatherReordered` is the bytes through the table. -/
theorem gatherReordered_bytes (buf table : Memory) (n i : Nat)
    (h : ∀ k, k < n → ∃ e, table[i + k]? = some e ∧ e.toNat < buf.length) :
    ∃ data, gatherReordered buf table n i = .bytes data ∧ data.length = n ∧
      ∀ k, k < n → ∃ e b, table[i + k]? = some e ∧ buf[e.toNat]? = some b ∧ data[k]? = some b := by
  induction n generalizing i with
  | zero => exact ⟨[], rfl, rfl, by simp⟩
  | succ n ih =>
    obtain ⟨data, hd, hl, hk⟩ := ih (i + 1) fun k hk => by
      have := h (k + 1) (by omega)
      rwa [show i + (k + 1) = i + 1 + k by omega] at this
    obtain ⟨e, he, hlt⟩ := h 0 (by omega)
    rw [Nat.add_zero] at he
    refine ⟨buf[e.toNat] :: data, ?_, by simp [hl], ?_⟩
    · rw [gatherReordered, Memory.read, he]
      simp only [hd, gatherByte, Memory.read, List.getElem?_eq_getElem hlt]
      rfl
    · intro k hlt'
      cases k with
      | zero => exact ⟨e, buf[e.toNat], by simpa using he, by simp [hlt], by simp⟩
      | succ k =>
        have := hk k (by omega)
        rw [show i + 1 + k = i + (k + 1) by omega] at this
        simpa using this

/-- Everything `gather` does where its sources are in range (R190, R230). -/
theorem gather_bytes (s : State) (reorder : Option Memory) (count : Nat) (hb : Memory.wf s.cfg.digits s.buf)
    (hc : count ≤ s.cfg.digits) (hs : SourcesInRange s reorder count) :
    ∃ data, gather s reorder count = .bytes data ∧ IsGathered s reorder count data := by
  have hlen : s.buf.length = s.cfg.digits := hb
  cases reorder with
  | none =>
    obtain ⟨data, hd, hl, hk⟩ := gatherPlain_bytes s.buf count 0 (by omega)
    refine ⟨data, hd, hl, fun i hi => ⟨i, s.buf[i], rfl, by simp, ?_⟩⟩
    rw [hk i hi, Nat.zero_add, List.getElem?_eq_getElem]
  | some table =>
    have hall : ∀ k, k < count → ∃ e, table[0 + k]? = some e ∧ e.toNat < s.cfg.digits := fun k hk => by
      obtain ⟨p, hp, hlt⟩ := hs k hk
      simp only [sourcePosition, Option.map_eq_some_iff] at hp
      obtain ⟨e, he, rfl⟩ := hp
      exact ⟨e, by simpa using he, hlt⟩
    obtain ⟨data, hd, hl, hk⟩ := gatherReordered_bytes s.buf table count 0 (by rw [hlen]; exact hall)
    refine ⟨data, ?_, hl, fun i hi => ?_⟩
    · simp only [gather, (reorderProblem_eq_none_iff _ _ _ _).mpr hall, hd]
    · obtain ⟨e, b, he, hbuf, hdata⟩ := hk i hi
      rw [Nat.zero_add] at he
      exact ⟨e.toNat, b, by simp [sourcePosition, he], hbuf, hdata⟩

/-- With every operand byte supplied, `gather` gives bytes, or names a bad entry. -/
theorem gather_supplied (s : State) (reorder : Option Memory) (count : Nat) (hb : Memory.wf s.cfg.digits s.buf)
    (hc : count ≤ s.cfg.digits) (hr : reorderShape s.cfg.digits reorder = true) :
    (∃ data, gather s reorder count = .bytes data ∧ data.length = count) ∨
      ∃ k, gather s reorder count = .badReorder k := by
  cases reorder with
  | none =>
    have hs : SourcesInRange s none count := fun i hi => ⟨i, rfl, by omega⟩
    obtain ⟨data, hd, hg⟩ := gather_bytes s none count hb hc hs
    exact .inl ⟨data, hd, hg.1⟩
  | some table =>
    have hl : table.length = s.cfg.digits := by simpa [reorderShape] using hr
    cases hp : reorderProblem s.cfg.digits table count 0 with
    | some g =>
      obtain ⟨k, rfl⟩ := reorderProblem_supplied _ _ _ _ (by omega) g hp
      exact .inr ⟨k, by simp [gather, hp]⟩
    | none =>
      have hall := (reorderProblem_eq_none_iff _ _ _ _).mp hp
      have hs : SourcesInRange s (some table) count := fun i hi => by
        obtain ⟨e, he, hlt⟩ := hall i hi
        rw [Nat.zero_add] at he
        exact ⟨e.toNat, by simp [sourcePosition, he], hlt⟩
      obtain ⟨data, hd, hg⟩ := gather_bytes s (some table) count hb hc hs
      exact .inl ⟨data, hd, hg.1⟩

theorem gather_badReorder (s : State) (table : Memory) (count i : Nat) (entry : Byte) (hi : i < count)
    (he : table[i]? = some entry) (hbad : s.cfg.digits ≤ entry.toNat) (hs : SourcesInRange s (some table) i) :
    gather s (some table) count = .badReorder i := by
  have hfirst : ∀ j, j < i → ∃ e, table[0 + j]? = some e ∧ e.toNat < s.cfg.digits := fun j hj => by
    obtain ⟨p, hp, hlt⟩ := hs j hj
    simp only [sourcePosition, Option.map_eq_some_iff] at hp
    obtain ⟨e, he', rfl⟩ := hp
    exact ⟨e, by simpa using he', hlt⟩
  have h := reorderProblem_bad s.cfg.digits table count 0 i entry hi (by simpa using he) hbad hfirst
  simp only [gather, h, Nat.zero_add]

/-- The bytes gathered are as many as asked for. -/
theorem gatherPlain_length (buf : Memory) (n i : Nat) (data : List Byte) (h : gatherPlain buf n i = .bytes data) :
    data.length = n := by
  induction n generalizing i data with
  | zero =>
    simp only [gatherPlain, Gathered.bytes.injEq] at h
    simp [← h]
  | succ n ih =>
    obtain ⟨b, more, _, hm, rfl⟩ := (gatherByte_eq_bytes_iff _ _ _ _).mp h
    simp [ih _ _ hm]

theorem gatherReordered_length (buf table : Memory) (n i : Nat) (data : List Byte)
    (h : gatherReordered buf table n i = .bytes data) : data.length = n := by
  induction n generalizing i data with
  | zero =>
    simp only [gatherReordered, Gathered.bytes.injEq] at h
    simp [← h]
  | succ n ih =>
    rw [gatherReordered] at h
    split at h
    · exact absurd h (by simp)
    · obtain ⟨b, more, _, hm, rfl⟩ := (gatherByte_eq_bytes_iff _ _ _ _).mp h
      simp [ih _ _ hm]

theorem gather_length (s : State) (reorder : Option Memory) (count : Nat) (data : List Byte)
    (h : gather s reorder count = .bytes data) : data.length = count := by
  unfold gather at h
  split at h
  · exact gatherPlain_length _ _ _ _ h
  · split at h
    · rename_i table g hg
      subst h
      exfalso
      clear * - hg
      revert hg
      generalize (0 : Nat) = i
      induction count generalizing i with
      | zero => simp [reorderProblem]
      | succ n ih =>
        rw [reorderProblem]
        split
        · simp
        · split
          · exact ih _
          · simp
    · exact gatherReordered_length _ _ _ _ _ h

end Sys2Proof.Machine
end

