-- ==== Sys2Proof/Laws/Monitor.lean ====
section
/-! SUPPORT. How the bus monitor reads the events of a byte and of a frame. -/

namespace Sys2Proof.Machine

/-- Eight bits sampled least significant first make the byte again (R66). -/
theorem bitsToNat_byte : ∀ b : Byte,
    BitVec.ofNat 8 (bitsToNat [b.getLsbD 0, b.getLsbD 1, b.getLsbD 2, b.getLsbD 3, b.getLsbD 4, b.getLsbD 5,
      b.getLsbD 6, b.getLsbD 7]) = b := by decide

/-- Inside an open frame, one byte with its acknowledge is read as that byte and that answer. -/
theorem observe_byte (m : Monitor) (cur : List (Byte × Answer)) (b : Byte) (a : Answer)
    (hc : m.current = some cur) (hb : m.bits = []) :
    (byteEvents b ++ ackEvents a).foldl Monitor.observe m =
      { m with clk := some false, dio := none, current := some (cur ++ [(b, a)]), bits := [] } := by
  have h := bitsToNat_byte b
  simp [byteEvents, ackEvents, Monitor.observe, Monitor.rise, Monitor.drive, hc, hb] at h ⊢
  exact h

theorem observe_bytes (sent : List (Byte × Answer)) (m : Monitor) (cur : List (Byte × Answer))
    (hc : m.current = some cur) (hb : m.bits = []) (x : Byte × Answer) :
    (bytesEvents (x :: sent)).foldl Monitor.observe m =
      { m with clk := some false, dio := none, current := some (cur ++ x :: sent), bits := [] } := by
  induction sent generalizing m cur x with
  | nil => rw [bytesEvents_cons, bytesEvents_nil, List.append_nil, observe_byte m cur x.1 x.2 hc hb]
  | cons y rest ih =>
    rw [bytesEvents_cons, List.foldl_append, observe_byte m cur x.1 x.2 hc hb, ih _ _ rfl rfl]
    simp

/-- A monitor on an idle bus reads the events of a frame as that frame, and is on an idle bus after it. -/
theorem observe_frame (sent : List (Byte × Answer)) (m : Monitor) (hm : m.IdleHigh) :
    (frameEvents sent).foldl Monitor.observe m = { m with frames := m.frames ++ [sent] } := by
  obtain ⟨clk, dio, current, bits, frames⟩ := m
  obtain ⟨rfl, rfl, rfl, rfl⟩ := hm
  cases sent with
  | nil => rfl
  | cons x rest =>
    simp only [frameEvents, List.foldl_append]
    rw [observe_bytes rest _ [] rfl rfl x]
    rfl

/-- A trace that has grown by the events of one frame has sent that frame. -/
theorem sendsFrames_one {s t : State} {sent : List (Byte × Answer)} (h : t.trace = s.trace ++ frameEvents sent) :
    SendsFrames s t [sent] :=
  ⟨_, h, by simp [frameEvents_length], fun m hm => observe_frame sent m hm⟩

/-- Two frames one after the other. -/
theorem SendsFrames.append {s t u : State} {first second : List (List (Byte × Answer))}
    (h1 : SendsFrames s t first) (h2 : SendsFrames t u second) : SendsFrames s u (first ++ second) := by
  obtain ⟨es1, ht1, hl1, hr1⟩ := h1
  obtain ⟨es2, ht2, hl2, hr2⟩ := h2
  refine ⟨es1 ++ es2, by rw [ht2, ht1, List.append_assoc], ?_, fun m hm => ?_⟩
  · rw [List.length_append, hl1, hl2, List.map_append, List.sum_append]
  · have hm1 : ({ m with frames := m.frames ++ first } : Monitor).IdleHigh := hm
    rw [List.foldl_append, hr1 m hm, hr2 _ hm1, List.append_assoc]

/-- The result of `observe_frame`, for the trace of a frame. -/
theorem frame_sendsFrames (cmd : Byte) (data : List Byte) (s : State) :
    (frame cmd data s).trace = s.trace ++ frameEvents (transcript (answerAt s) (cmd :: data)) := by
  rw [frame_eq]

theorem transcript_length_le (ans : Nat → Answer) (bytes : List Byte) :
    (transcript ans bytes).length ≤ bytes.length := by
  induction bytes generalizing ans with
  | nil => exact Nat.le_refl 0
  | cons b rest ih =>
    cases h : ans 0 with
    | ack =>
      have := ih fun k => ans (k + 1)
      simp only [transcript, h, List.length_cons]
      omega
    | nak => simp [transcript, h]

theorem transcript_length_pos (ans : Nat → Answer) (b : Byte) (bytes : List Byte) :
    1 ≤ (transcript ans (b :: bytes)).length := by
  cases h : ans 0 <;> simp [transcript, h]

theorem transcript_head (ans : Nat → Answer) (b : Byte) (bytes : List Byte) :
    (transcript ans (b :: bytes)).head?.map Prod.fst = some b := by
  cases h : ans 0 <;> simp [transcript, h]

end Sys2Proof.Machine
end

