-- ==== Sys2Proof/Laws/PerInstr.lean ====
section
/-! SUPPORT. The family `TableRow`: the encoding of every instruction has the fixed bits of its row of
spec/opcode_table.json. -/

namespace Sys2Proof.Laws.TableRow
open Sys2Proof

/-- The width, match and mask of each instruction's row in spec/opcode_table.json. -/
def row : Instr → Nat × Nat × Nat
  | .segset _ _ => (32, 0x01000000, 0xFF000000)
  | .radixon _ => (32, 0x02000000, 0xFF000000)
  | .radixoff _ => (32, 0x03000000, 0xFF000000)
  | .radixtgl _ => (32, 0x04000000, 0xFF000000)
  | .fill _ _ _ => (32, 0x05000000, 0xFF000000)
  | .clear => (32, 0x06000000, 0xFF000000)
  | .fillall => (32, 0x07000000, 0xFF000000)
  | .getcur => (32, 0x08000000, 0xFF000000)
  | .setcur _ => (32, 0x09000000, 0xFF000000)
  | .putc _ => (32, 0x0A000000, 0xFF000000)
  | .puts _ _ => (32, 0x0B000000, 0xFF000000)
  | .lookup _ => (32, 0x10000000, 0xFF000000)
  | .sendcmd _ => (32, 0x20000000, 0xFF000000)
  | .sendcmdb _ _ => (32, 0x21000000, 0xFF000000)
  | .sendbuf _ _ _ => (32, 0x22000000, 0xFF000000)
  | .init => (32, 0x30000000, 0xFF000000)
  | .commit _ => (32, 0x31000000, 0xFF000000)
  | .pwron => (32, 0x32000000, 0xFF000000)
  | .pwroff => (32, 0x33000000, 0xFF000000)
  | .toggle => (32, 0x34000000, 0xFF000000)
  | .setcontrast _ => (32, 0x35000000, 0xFF000000)
  | .busDataCmd _ _ _ _ => (8, 0x40, 0xC0)
  | .busDisplayCtrl _ _ _ => (8, 0x80, 0xC0)
  | .busAddress _ _ => (8, 0xC0, 0xC0)

/-- A port item's width and its bits as a number (30_encoding.md R90, R102). -/
def bitsOf : PortItem → Nat × Nat
  | .request word _ => (32, word.toNat)
  | .busCommand byte => (8, byte.toNat)

/-- The encoded instruction has its row's width, and its row's match bits under its mask. -/
def Statement (i : Instr) : Prop :=
  (bitsOf (encode i)).1 = (row i).1 ∧ (bitsOf (encode i)).2 &&& (row i).2.2 = (row i).2.1

/-- Under the mask of the request rows only OP is left. -/
theorem packWord_and_opMask (op a b c : Byte) :
    (packWord op a b c).toNat &&& 0xFF000000 = (packWord op 0 0 0).toNat := by
  have h : packWord op a b c &&& 0xFF000000#32 = packWord op 0 0 0 := by
    apply BitVec.eq_of_getLsbD_eq
    intro i hi
    have hm : (0xFF000000#32).getLsbD i = decide (24 ≤ i) := by
      revert i
      decide
    rw [BitVec.getLsbD_and, packWord_getLsbD, packWord_getLsbD, hm]
    by_cases h1 : i < 8
    · simp [h1, show ¬ 24 ≤ i by omega]
    · by_cases h2 : i - 8 < 8
      · simp [h1, h2, show ¬ 24 ≤ i by omega]
      · by_cases h3 : i - 8 - 8 < 8
        · simp [h1, h2, h3, show ¬ 24 ≤ i by omega]
        · simp [h1, h2, h3, show 24 ≤ i by omega]
  exact congrArg BitVec.toNat h

theorem segset (index : Byte) (mask : Byte) : Statement (.segset index mask) :=
  ⟨rfl, packWord_and_opMask _ _ _ _⟩

theorem radixon (index : Byte) : Statement (.radixon index) :=
  ⟨rfl, packWord_and_opMask _ _ _ _⟩

theorem radixoff (index : Byte) : Statement (.radixoff index) :=
  ⟨rfl, packWord_and_opMask _ _ _ _⟩

theorem radixtgl (index : Byte) : Statement (.radixtgl index) :=
  ⟨rfl, packWord_and_opMask _ _ _ _⟩

theorem fill (mask : Byte) (start : Byte) (stop : Byte) : Statement (.fill mask start stop) :=
  ⟨rfl, packWord_and_opMask _ _ _ _⟩

theorem clear : Statement (.clear) :=
  ⟨rfl, packWord_and_opMask _ _ _ _⟩

theorem fillall : Statement (.fillall) :=
  ⟨rfl, packWord_and_opMask _ _ _ _⟩

theorem getcur : Statement (.getcur) :=
  ⟨rfl, packWord_and_opMask _ _ _ _⟩

theorem setcur (index : Byte) : Statement (.setcur index) :=
  ⟨rfl, packWord_and_opMask _ _ _ _⟩

theorem putc (code : Byte) : Statement (.putc code) :=
  ⟨rfl, packWord_and_opMask _ _ _ _⟩

theorem puts (n : Byte) (str : Memory) : Statement (.puts n str) :=
  ⟨rfl, packWord_and_opMask _ _ _ _⟩

theorem lookup (code : Byte) : Statement (.lookup code) :=
  ⟨rfl, packWord_and_opMask _ _ _ _⟩

theorem sendcmd (cmd : Byte) : Statement (.sendcmd cmd) :=
  ⟨rfl, packWord_and_opMask _ _ _ _⟩

theorem sendcmdb (cmd : Byte) (data : Byte) : Statement (.sendcmdb cmd data) :=
  ⟨rfl, packWord_and_opMask _ _ _ _⟩

theorem sendbuf (cmd : Byte) (count : Byte) (reorder : Option Memory) : Statement (.sendbuf cmd count reorder) :=
  ⟨rfl, packWord_and_opMask _ _ _ _⟩

theorem init : Statement (.init) :=
  ⟨rfl, packWord_and_opMask _ _ _ _⟩

theorem commit (reorder : Option Memory) : Statement (.commit reorder) :=
  ⟨rfl, packWord_and_opMask _ _ _ _⟩

theorem pwron : Statement (.pwron) :=
  ⟨rfl, packWord_and_opMask _ _ _ _⟩

theorem pwroff : Statement (.pwroff) :=
  ⟨rfl, packWord_and_opMask _ _ _ _⟩

theorem toggle : Statement (.toggle) :=
  ⟨rfl, packWord_and_opMask _ _ _ _⟩

theorem setcontrast (level : Byte) : Statement (.setcontrast level) :=
  ⟨rfl, packWord_and_opMask _ _ _ _⟩

theorem busDataCmd (reserved : BitVec 2) (test : Bool) (fixed : Bool) (rw : BitVec 2) : Statement (.busDataCmd reserved test fixed rw) := by
  revert reserved test fixed rw
  unfold Statement
  decide

theorem busDisplayCtrl (reserved : BitVec 2) (on : Bool) (contrast : BitVec 3) : Statement (.busDisplayCtrl reserved on contrast) := by
  revert reserved on contrast
  unfold Statement
  decide

theorem busAddress (reserved : BitVec 2) (addr : BitVec 4) : Statement (.busAddress reserved addr) := by
  revert reserved addr
  unfold Statement
  decide

end Sys2Proof.Laws.TableRow
end

