-- ==== Sys2Proof/Laws/Requests.lean ====
section
/-! SUPPORT. What each shared request body does, as one equation, and what any instruction can do, as one list of cases. -/

namespace Sys2Proof.Machine

/-- The state after a frame that carried `sent`, with the request's own `fr` left out. -/
def afterFrame (cmd : Byte) (sent : List (Byte × Answer)) (s : State) : State :=
  { s with
    lastCmd := some cmd, fsm := .idle, bitCounter := none, txByte := none
    clk := .driven true, dio := .driven true
    trace := s.trace ++ frameEvents sent
    answers := s.answers.drop sent.length, draws := s.draws + sent.length }

theorem frame_eq_afterFrame (cmd : Byte) (data : List Byte) (s : State) :
    frame cmd data s =
      { afterFrame cmd (transcript (answerAt s) (cmd :: data)) s with
        fr := some (resultOf (transcript (answerAt s) (cmd :: data))) } := frame_eq cmd data s

/-- The answers a second frame draws are those after the first frame's. -/
theorem answerAt_frame (cmd : Byte) (data : List Byte) (s : State) (k : Nat) :
    answerAt (frame cmd data s) k = answerAt s (k + (transcript (answerAt s) (cmd :: data)).length) := by
  rw [frame_eq]
  simp only [answerAt, List.getElem?_drop, Nat.add_comm k, Nat.add_assoc]

theorem sendFrame_eq (cmd : Byte) (data : List Byte) (s : State) :
    sendFrame cmd data s =
      respond (resultOf (transcript (answerAt s) (cmd :: data))) 0
        { afterFrame cmd (transcript (answerAt s) (cmd :: data)) s with
          lastResult := some (resultOf (transcript (answerAt s) (cmd :: data))) } := by
  simp only [sendFrame, frame_eq_afterFrame]
  rfl

theorem switchDisplay_eq (on : Bool) (s : State) :
    switchDisplay on s =
      { afterFrame (dispCtrl on s.contrast) (transcript (answerAt s) [dispCtrl on s.contrast]) s with
        fr := some (resultOf (transcript (answerAt s) [dispCtrl on s.contrast]))
        power := if resultOf (transcript (answerAt s) [dispCtrl on s.contrast]) = .success
          then (if on then .on else .off) else s.power } := by
  simp only [switchDisplay, frame_eq_afterFrame]
  rfl

theorem frameResult_switchDisplay (on : Bool) (s : State) :
    frameResult (switchDisplay on s) = resultOf (transcript (answerAt s) [dispCtrl on s.contrast]) := by
  rw [switchDisplay_eq]
  rfl

theorem powerRequest_eq (on : Bool) (s : State) :
    powerRequest on s =
      respond (resultOf (transcript (answerAt s) [dispCtrl on s.contrast])) 0
        { afterFrame (dispCtrl on s.contrast) (transcript (answerAt s) [dispCtrl on s.contrast]) s with
          power := if resultOf (transcript (answerAt s) [dispCtrl on s.contrast]) = .success
            then (if on then .on else .off) else s.power
          lastResult := some (resultOf (transcript (answerAt s) [dispCtrl on s.contrast])) } := by
  simp only [powerRequest, switchDisplay_eq]
  rfl

theorem initialise_eq (s : State) :
    initialise s =
      respond (resultOf (transcript (answerAt s) [dispCtrl true s.cfg.contrastDefault])) 0
        { afterFrame (dispCtrl true s.cfg.contrastDefault)
            (transcript (answerAt s) [dispCtrl true s.cfg.contrastDefault]) (initSetup s) with
          power := if resultOf (transcript (answerAt s) [dispCtrl true s.cfg.contrastDefault]) = .success
            then .on else s.power
          ctrl := if resultOf (transcript (answerAt s) [dispCtrl true s.cfg.contrastDefault]) = .success
            then .ready else s.ctrl
          lastResult := some (resultOf (transcript (answerAt s) [dispCtrl true s.cfg.contrastDefault])) } := by
  have ha : answerAt (initSetup s) = answerAt s := rfl
  have hc : (initSetup s).contrast = s.cfg.contrastDefault := rfl
  simp only [initialise, switchDisplay_eq, ha, hc]
  generalize resultOf (transcript (answerAt s) [dispCtrl true s.cfg.contrastDefault]) = r
  cases r <;> rfl

theorem commitFrames_eq (data : List Byte) (s : State) :
    let sent1 := transcript (answerAt s) [0x40#8]
    let sent2 := transcript (fun k => answerAt s (k + sent1.length)) (0xC0#8 :: data)
    commitFrames data s =
      respond (firstFail (resultOf sent1) (resultOf sent2)) 0
        { afterFrame 0xC0#8 sent2 (afterFrame 0x40#8 sent1 s) with
          lastResult := some (firstFail (resultOf sent1) (resultOf sent2)) } := by
  intro sent1 sent2
  have h : answerAt (frame 0x40#8 [] s) = fun k => answerAt s (k + sent1.length) :=
    funext fun k => answerAt_frame _ _ _ _
  unfold commitFrames
  simp only [frameResult_frame, h]
  rw [frame_eq_afterFrame 0xC0#8 data, h, frame_eq_afterFrame 0x40#8 []]
  rfl

/-- A response word is a packed word: result code, zeros, data (R100). -/
theorem responseWord_eq (r : TransmissionResult) (data : Byte) : responseWord r data = packWord r.code 0 0 data := by
  revert data
  cases r <;> decide

@[simp] theorem lastData_respond (r : TransmissionResult) (data : Byte) (s : State) :
    lastData (respond r data s) = data := by
  simp only [lastData, respond_responses, List.getLast?_append, List.getLast?_singleton, Option.some_or,
    Option.getD_some, responseWord_eq]
  exact cField_packWord _ _ _ _

/-- Glyph writing reads the configuration, `BUF` and `CURSOR` alone: with those given it does the same in any state. -/
theorem writeChar_reads (code : Byte) (s t : State) (hcfg : t.cfg = s.cfg) :
    writeChar code { t with buf := s.buf, cursor := s.cursor } =
      ({ t with buf := (writeChar code s).1.buf, cursor := (writeChar code s).1.cursor }, (writeChar code s).2) := by
  unfold writeChar
  simp only [hcfg]
  split
  · rfl
  · split
    · simp only [writeGlyph, setSegments, updateDigit, inBounds, setCursor]
    · unfold writeUnresolved
      simp only
      split
      · simp only [updateDigit, inBounds]
      · rfl

theorem writeString_reads (str : Memory) (s t : State) (hcfg : t.cfg = s.cfg) :
    writeString str { t with buf := s.buf, cursor := s.cursor } =
      ({ t with buf := (writeString str s).1.buf, cursor := (writeString str s).1.cursor }, (writeString str s).2) := by
  induction str generalizing s with
  | nil => rfl
  | cons c rest ih =>
    have h : (writeChar c s).1.cfg = s.cfg := by rw [writeChar_frame]
    simp only [writeString, writeChar_reads c s t hcfg, ih (writeChar c s).1 (hcfg.trans h.symm)]

/-- What an instruction can do when it answers a next state. -/
inductive ExecEffect (i : Instr) (s : State) : State → Prop where
  /-- A bus request or bus command before `INIT` (R264). -/
  | notReady (op : Byte) (hi : busRequestOp i = some op ∨ isBusCommand i = true) (hc : s.ctrl = .uninitialized) :
    ExecEffect i s (raise (.notReady op) s)
  /-- An operand out of range (R265). -/
  | badOperand (f : EngineFault) (hi : (∃ cmd count reorder, i = .sendbuf cmd count reorder) ∨ ∃ reorder, i = .commit reorder)
    (hf : (∃ c, f = .badCount c) ∨ ∃ k, f = .badReorder k) :
    ExecEffect i s (raise f s)
  /-- A FrameBuffer or FontTable request (R159). -/
  | localRequest (buf : Memory) (cursor : BitVec 3) (data : Byte) (hi : isLocalRequest i = true)
    (shape : s.cfg.valid → Memory.wf s.cfg.digits s.buf → s.cursor.toNat ≤ s.cfg.digits →
      Memory.wf s.cfg.digits buf ∧ cursor.toNat ≤ s.cfg.digits) :
    ExecEffect i s (respond .success data { s with buf := buf, cursor := cursor })
  /-- `INIT` with equal pins (R221). -/
  | pinsEqual (hi : i = .init) :
    ExecEffect i s (respondResult .pinConfigurationError s)
  /-- `INIT` past its pin check (R221). -/
  | initialised (hi : i = .init) : ExecEffect i s (initialise s)
  /-- A send request (R188 to R190). -/
  | sent (cmd : Byte) (data : List Byte) (op : Byte) (hi : busRequestOp i = some op) (hr : s.ctrl = .ready)
    (hlen : data.length ≤ 1 ∨ data.length ≤ s.cfg.digits) : ExecEffect i s (sendFrame cmd data s)
  /-- A power request (R225 to R227). -/
  | switched (on : Bool) (hi : i = .pwron ∨ i = .pwroff ∨ i = .toggle) (hr : s.ctrl = .ready) :
    ExecEffect i s (powerRequest on s)
  /-- `SETCONTRAST` (R229). -/
  | contrastSet (level : Byte) (hi : i = .setcontrast level) (hr : s.ctrl = .ready) :
    ExecEffect i s (powerRequest true (setContrastReg (clampLevel level) s))
  /-- `COMMIT` (R230). -/
  | committed (reorder : Option Memory) (data : List Byte) (hi : i = .commit reorder) (hr : s.ctrl = .ready)
    (hlen : data.length = s.cfg.digits) : ExecEffect i s (commitFrames data s)
  /-- A bus command byte (log 8). -/
  | busCommand (cmd : Byte) (hi : isBusCommand i = true) (hr : s.ctrl = .ready) :
    ExecEffect i s (finishBusCommand (frame cmd [] s))

theorem requireReady_cases {op : Byte} {s t : State} {body : Host.Outcome State Fault Refusal}
    (h : requireReady op s body = .next t) :
    (s.ctrl = .uninitialized ∧ t = raise (.notReady op) s) ∨ (s.ctrl = .ready ∧ body = .next t) := by
  unfold requireReady at h
  cases hc : s.ctrl with
  | uninitialized =>
    rw [hc] at h
    exact .inl ⟨rfl, (Host.Outcome.next.inj h).symm⟩
  | ready =>
    rw [hc] at h
    exact .inr ⟨rfl, h⟩

theorem withGathered_cases {g : Gathered} {s t : State} {send : List Byte → State}
    (h : withGathered g s send = .next t) :
    (∃ data, g = .bytes data ∧ t = send data) ∨ (∃ k, g = .badReorder k ∧ t = raise (.badReorder k) s) := by
  cases g with
  | bytes data => exact .inl ⟨data, rfl, (Host.Outcome.next.inj h).symm⟩
  | badReorder k => exact .inr ⟨k, rfl, (Host.Outcome.next.inj h).symm⟩
  | noSuchByte a => exact absurd h (by simp [withGathered])

/-- A local request that answers with `u`, where `u` is `s` but for `BUF` and `CURSOR`. -/
theorem ExecEffect.ofLocal {i : Instr} {s u t : State} {data : Byte} (hi : isLocalRequest i = true)
    (hu : u = { s with buf := u.buf, cursor := u.cursor })
    (shape : s.cfg.valid → Memory.wf s.cfg.digits s.buf → s.cursor.toNat ≤ s.cfg.digits →
      Memory.wf s.cfg.digits u.buf ∧ u.cursor.toNat ≤ s.cfg.digits)
    (h : Host.Outcome.next (φ := Fault) (ρ := Refusal) (respond .success data u) = .next t) : ExecEffect i s t := by
  rw [← Host.Outcome.next.inj h, hu]
  exact .localRequest u.buf u.cursor data hi shape

theorem digitsMapped_length (s : State) (p : Nat → Bool) (f : Byte → Byte) :
    (digitsMapped s p f).length = s.buf.length := by
  simp [digitsMapped]

theorem fillSegments_frame (mask : Byte) (start stop : Nat) (s : State) :
    fillSegments mask start stop s =
      { s with buf := (fillSegments mask start stop s).buf, cursor := (fillSegments mask start stop s).cursor } := by
  rw [fillSegments_eq]
  split <;> rfl

theorem fillSegments_shape (mask : Byte) (start stop : Nat) (s : State) (hc : s.cfg.valid)
    (hb : Memory.wf s.cfg.digits s.buf) (hcur : s.cursor.toNat ≤ s.cfg.digits) :
    Memory.wf s.cfg.digits (fillSegments mask start stop s).buf ∧
      (fillSegments mask start stop s).cursor.toNat ≤ s.cfg.digits := by
  have hv := hc.2
  rw [fillSegments_eq]
  split
  · refine ⟨(digitsMapped_length _ _ _).trans hb, ?_⟩
    simp only [BitVec.toNat_ofNat]
    omega
  · exact ⟨hb, hcur⟩

/-- Every instruction that answers a next state does one of the things listed. -/
theorem exec_effect {i : Instr} {s t : State} (h : exec i s = .next t) : ExecEffect i s t := by
  cases i with
  | segset index mask =>
    exact .ofLocal rfl rfl (fun _ hb hcur => ⟨updateDigit_wf _ _ _ _ hb, hcur⟩) h
  | radixon index => exact .ofLocal rfl rfl (fun _ hb hcur => ⟨updateDigit_wf _ _ _ _ hb, hcur⟩) h
  | radixoff index => exact .ofLocal rfl rfl (fun _ hb hcur => ⟨updateDigit_wf _ _ _ _ hb, hcur⟩) h
  | radixtgl index => exact .ofLocal rfl rfl (fun _ hb hcur => ⟨updateDigit_wf _ _ _ _ hb, hcur⟩) h
  | fill mask start stop => exact .ofLocal rfl (fillSegments_frame _ _ _ _) (fillSegments_shape _ _ _ _) h
  | clear => exact .ofLocal rfl (fillSegments_frame _ _ _ _) (fillSegments_shape _ _ _ _) h
  | fillall => exact .ofLocal rfl (fillSegments_frame _ _ _ _) (fillSegments_shape _ _ _ _) h
  | getcur => exact .ofLocal rfl rfl (fun _ hb hcur => ⟨hb, hcur⟩) h
  | setcur index =>
    refine .ofLocal (u := placeCursor index.toNat s) rfl ?_ ?_ h
    · unfold placeCursor
      split <;> rfl
    · intro hc hb hcur
      unfold placeCursor
      split
      · rename_i hlt
        have hv := hc.2
        refine ⟨hb, ?_⟩
        simp only [setCursor_cursor, BitVec.toNat_ofNat]
        omega
      · exact ⟨hb, hcur⟩
  | putc code => exact .ofLocal rfl (writeChar_frame _ _) (writeChar_shape _ _) h
  | puts n str =>
    simp only [exec, execPuts] at h
    split at h
    · exact absurd h (by simp)
    · exact .ofLocal rfl (writeString_frame _ _) (writeString_shape _ _) h
  | lookup code => exact .ofLocal rfl rfl (fun _ hb hcur => ⟨hb, hcur⟩) h
  | sendcmd cmd =>
    obtain ⟨hc, rfl⟩ | ⟨hr, hb⟩ := requireReady_cases h
    · exact .notReady _ (.inl rfl) hc
    · rw [← Host.Outcome.next.inj hb]
      exact .sent cmd [] _ rfl hr (.inl (by simp))
  | sendcmdb cmd data =>
    obtain ⟨hc, rfl⟩ | ⟨hr, hb⟩ := requireReady_cases h
    · exact .notReady _ (.inl rfl) hc
    · rw [← Host.Outcome.next.inj hb]
      exact .sent cmd [data] _ rfl hr (.inl (by simp))
  | sendbuf cmd count reorder =>
    obtain ⟨hc, rfl⟩ | ⟨hr, hb⟩ := requireReady_cases h
    · exact .notReady _ (.inl rfl) hc
    · split at hb
      · rw [← Host.Outcome.next.inj hb]
        exact .badOperand _ (.inl ⟨_, _, _, rfl⟩) (.inl ⟨_, rfl⟩)
      · obtain ⟨data, hg, rfl⟩ | ⟨k, _, rfl⟩ := withGathered_cases hb
        · have := gather_length _ _ _ _ hg
          exact .sent cmd data _ rfl hr (.inr (by omega))
        · exact .badOperand _ (.inl ⟨_, _, _, rfl⟩) (.inr ⟨_, rfl⟩)
  | init =>
    simp only [exec, execInit] at h
    split at h
    · rw [← Host.Outcome.next.inj h]
      exact .pinsEqual rfl
    · rw [← Host.Outcome.next.inj h]
      exact .initialised rfl
  | commit reorder =>
    obtain ⟨hc, rfl⟩ | ⟨hr, hb⟩ := requireReady_cases h
    · exact .notReady _ (.inl rfl) hc
    · obtain ⟨data, hg, rfl⟩ | ⟨k, _, rfl⟩ := withGathered_cases hb
      · exact .committed reorder data rfl hr (gather_length _ _ _ _ hg)
      · exact .badOperand _ (.inr ⟨_, rfl⟩) (.inr ⟨_, rfl⟩)
  | pwron =>
    obtain ⟨hc, rfl⟩ | ⟨hr, hb⟩ := requireReady_cases h
    · exact .notReady _ (.inl rfl) hc
    · rw [← Host.Outcome.next.inj hb]
      exact .switched _ (.inl rfl) hr
  | pwroff =>
    obtain ⟨hc, rfl⟩ | ⟨hr, hb⟩ := requireReady_cases h
    · exact .notReady _ (.inl rfl) hc
    · rw [← Host.Outcome.next.inj hb]
      exact .switched _ (.inr (.inl rfl)) hr
  | toggle =>
    obtain ⟨hc, rfl⟩ | ⟨hr, hb⟩ := requireReady_cases h
    · exact .notReady _ (.inl rfl) hc
    · rw [← Host.Outcome.next.inj hb]
      exact .switched _ (.inr (.inr rfl)) hr
  | setcontrast level =>
    obtain ⟨hc, rfl⟩ | ⟨hr, hb⟩ := requireReady_cases h
    · exact .notReady _ (.inl rfl) hc
    · rw [← Host.Outcome.next.inj hb]
      exact .contrastSet level rfl hr
  | busDataCmd reserved test fixed rw =>
    obtain ⟨hc, rfl⟩ | ⟨hr, hb⟩ := requireReady_cases h
    · exact .notReady _ (.inr rfl) hc
    · rw [← Host.Outcome.next.inj hb]
      exact .busCommand _ rfl hr
  | busDisplayCtrl reserved on contrast =>
    obtain ⟨hc, rfl⟩ | ⟨hr, hb⟩ := requireReady_cases h
    · exact .notReady _ (.inr rfl) hc
    · rw [← Host.Outcome.next.inj hb]
      exact .busCommand _ rfl hr
  | busAddress reserved addr =>
    obtain ⟨hc, rfl⟩ | ⟨hr, hb⟩ := requireReady_cases h
    · exact .notReady _ (.inr rfl) hc
    · rw [← Host.Outcome.next.inj hb]
      exact .busCommand _ rfl hr

/-- What a step can do when it answers a next state. -/
theorem step_cases {s t : State} (h : step s = .next t) :
    s.fault = none ∧
      ((s.hostPending = [] ∧ t = s) ∨
        (∃ w operand rest op, s.hostPending = .request w operand :: rest ∧ t = raise (.illegalRequest op) s) ∨
        (∃ item rest i, s.hostPending = item :: rest ∧ decode item = .ok i ∧
          i.wellFormed s.cfg.digits = true ∧ exec i s = .next t)) := by
  unfold step at h
  cases hf : s.fault with
  | some f => rw [hf] at h; exact absurd h (by simp)
  | none =>
    rw [hf] at h
    refine ⟨rfl, ?_⟩
    cases hp : s.hostPending with
    | nil =>
      simp only [fetchItem, hp, List.head?_nil, waitForRequest] at h
      exact .inl ⟨rfl, (Host.Outcome.next.inj h).symm⟩
    | cons item rest =>
      simp only [fetchItem, hp, List.head?_cons] at h
      cases hd : decode item with
      | error e =>
        rw [hd] at h
        cases e with
        | noCommandFamily b => exact absurd h (by simp [undecodable])
        | undefinedOpcode op =>
          cases item with
          | request w operand => exact .inr (.inl ⟨w, operand, rest, op, rfl, (Host.Outcome.next.inj h).symm⟩)
          | busCommand b =>
            simp only [decode, decodeBusCommand] at hd
            split at hd <;> simp at hd
      | ok i =>
        rw [hd] at h
        simp only at h
        split at h
        · rename_i hw
          exact .inr (.inr ⟨item, rest, i, rfl, hd, hw, h⟩)
        · exact absurd h (by simp)

end Sys2Proof.Machine
end

