-- ==== Sys2Proof/Tests/Slice0.lean ====
section
/-! SUPPORT. Tests. The expected values are those of spec/95_test_vectors.md (named at each test) or worked out by hand from
the rule named; the witnesses show that the hypotheses of the obligations can be met together. -/

namespace Sys2Proof.Tests
open Sys2Proof Sys2Proof.Machine

/-! ## Helpers -/

/-- The common setup of 95_test_vectors.md §0. -/
def vecCfg : Config := { Config.default with contrastDefault := 3 }

/-- An engine right after construction with that setup and the answers named. -/
def fresh (answers : List Answer) : State := { State.construct vecCfg with answers := answers }

/-- A ready engine with lines idle-high. -/
def ready (buf : Memory) (cursor : BitVec 3) (answers : List Answer) : State :=
  { fresh answers with buf := buf, cursor := cursor, contrast := 3, ctrl := .ready, clk := .driven true, dio := .driven true }

/-- The engine of 95_test_vectors.md §2.3. -/
def local0 : State := ready [0x80, 0, 0, 0] 0 []

/-- The next state's view `f`, where there is a next state. -/
def view {α : Type} (f : State → α) : Host.Outcome State Fault Refusal → Option α
  | .next t => some (f t)
  | .fault _ => none
  | .refused _ => none

/-- `BUF`, `CURSOR` and `DATA`: the columns of 95_test_vectors.md §2.3. -/
def cols (t : State) : Memory × Nat × Byte := (t.buf, t.cursor.toNat, lastData t)

/-- The last response word, the bytes of the frames on the wire, and the number of events. -/
structure Wire where
  response : Option Word
  frames : List (List Byte)
  events : Nat
  deriving DecidableEq, Repr

/-- What the columns of 95_test_vectors.md §2.4 show. -/
def bus (t : State) : Wire :=
  ⟨t.responses.getLast?, (readTrace t.trace).frames.map (·.map Prod.fst), t.trace.length⟩

/-- What a step of a faulted request leaves. -/
def faultAndTrace (t : State) : Option EngineFault × List Event × Nat := (t.fault, t.trace, t.responses.length)

/-- The decoder's answer, where it gives one. -/
def decoded (item : PortItem) : Option Instr :=
  match decode item with
  | .ok i => some i
  | .error _ => none

/-! ## WellFormed: ill-formed terms are refused -/

theorem test_wf_puts_short : (Instr.puts 2 [0x31]).wellFormed 4 = false := by decide
theorem test_wf_puts_long : (Instr.puts 0 [0x31]).wellFormed 4 = false := by decide
theorem test_wf_puts : (Instr.puts 1 [0x31]).wellFormed 4 = true := by decide
theorem test_wf_sendbuf_short : (Instr.sendbuf 0xC0 1 (some [0])).wellFormed 4 = false := by decide
theorem test_wf_sendbuf : (Instr.sendbuf 0xC0 1 (some [0, 4, 9, 9])).wellFormed 4 = true := by decide
theorem test_wf_commit_long : (Instr.commit (some [0, 1, 2, 3, 0])).wellFormed 4 = false := by decide
theorem test_wf_commit : (Instr.commit none).wellFormed 4 = true := by decide

/-! ## Decode: words written out from R90 to R92 and R102 to R105, one for every constructor -/

theorem test_decode_segset : decoded (.request 0b00000001_00000001_00000110_00000000 []) = some (.segset 1 6) := by decide
theorem test_decode_radixon : decoded (.request 0b00000010_00000010_00000000_00000000 []) = some (.radixon 2) := by decide
theorem test_decode_radixoff : decoded (.request 0b00000011_10000000_00000000_00000000 []) = some (.radixoff 128) := by
  decide
theorem test_decode_radixtgl : decoded (.request 0b00000100_00000011_00000000_00000000 []) = some (.radixtgl 3) := by decide
theorem test_decode_fill : decoded (.request 0b00000101_00111111_00000011_00000000 []) = some (.fill 0x3F 3 0) := by decide
theorem test_decode_clear : decoded (.request 0b00000110_00000000_00000000_00000000 []) = some .clear := by decide
theorem test_decode_fillall : decoded (.request 0b00000111_00000000_00000000_00000000 []) = some .fillall := by decide
theorem test_decode_getcur : decoded (.request 0b00001000_00000000_00000000_00000000 []) = some .getcur := by decide
theorem test_decode_setcur : decoded (.request 0b00001001_11111111_10101010_01010101 []) = some (.setcur 255) := by decide
theorem test_decode_putc : decoded (.request 0b00001010_00110001_00000000_00000000 []) = some (.putc 0x31) := by decide
theorem test_decode_puts :
    decoded (.request 0b00001011_00000010_00000000_00000000 [0x31, 0x2E]) = some (.puts 2 [0x31, 0x2E]) := by decide
theorem test_decode_lookup : decoded (.request 0b00010000_00101101_00000000_00000000 []) = some (.lookup 0x2D) := by decide
theorem test_decode_sendcmd : decoded (.request 0b00100000_10001011_00000000_00000000 []) = some (.sendcmd 0x8B) := by decide
theorem test_decode_sendcmdb :
    decoded (.request 0b00100001_11000001_00000110_00000000 []) = some (.sendcmdb 0xC1 0x06) := by decide
theorem test_decode_sendbuf_plain :
    decoded (.request 0b00100010_11000000_00000011_11111110 []) = some (.sendbuf 0xC0 3 none) := by decide
theorem test_decode_sendbuf_reordered : decoded (.request 0b00100010_11000000_00000011_00000001 [2, 0, 1, 0]) =
    some (.sendbuf 0xC0 3 (some [2, 0, 1, 0])) := by decide
theorem test_decode_init : decoded (.request 0b00110000_00000000_00000000_00000000 []) = some .init := by decide
theorem test_decode_commit_reordered :
    decoded (.request 0b00110001_00000000_00000000_00000001 [3, 2, 1, 0]) = some (.commit (some [3, 2, 1, 0])) := by decide
theorem test_decode_pwron : decoded (.request 0b00110010_00000000_00000000_00000000 []) = some .pwron := by decide
theorem test_decode_pwroff : decoded (.request 0b00110011_00000000_00000000_00000000 []) = some .pwroff := by decide
theorem test_decode_toggle : decoded (.request 0b00110100_00000000_00000000_00000000 []) = some .toggle := by decide
theorem test_decode_setcontrast :
    decoded (.request 0b00110101_11001000_00000000_00000000 []) = some (.setcontrast 200) := by decide
theorem test_decode_busDataCmd :
    decoded (.busCommand 0b01_00_0_1_10) = some (.busDataCmd 0 false true 2) := by decide
theorem test_decode_busDisplayCtrl : decoded (.busCommand 0b10_00_1_011) = some (.busDisplayCtrl 0 true 3) := by decide
theorem test_decode_busAddress : decoded (.busCommand 0b11_00_0101) = some (.busAddress 0 5) := by decide
theorem test_decode_undefined :
    [0x00000000, 0x36000000, 0xFF123456, 0x0C000000].map (fun w : Word => decoded (.request w [])) =
      [none, none, none, none] := by decide
theorem test_decode_noFamily : decoded (.busCommand 0b00_111111) = none := by decide
theorem test_decodeTableWord_puts : decodeTableWord 32 0x0B020000 = some (.puts 2 [0, 0]) := by decide
theorem test_decodeTableWord_bus : decodeTableWord 8 0x8B = some (.busDisplayCtrl 0 true 3) := by decide

/-! ## FontTable (95 §2.2) -/

theorem test_lookup_first_match : view cols (exec (.lookup 0x31) local0) = some ([0x80, 0, 0, 0], 0, 0x06) := by decide
theorem test_lookup_bit7_and_unknown :
    (view lastData (exec (.lookup 0x2D) local0), view lastData (exec (.lookup 0x41) local0)) =
      (some 0x40, some 0xFF) := by decide

/-! ## FrameBuffer (95 §2.3) -/

theorem test_segset : view cols (exec (.segset 0 0x06) local0) = some ([0x86, 0, 0, 0], 0, 0) := by decide
theorem test_segset_bit7_and_out_of_bounds :
    (view cols (exec (.segset 0 0xFF) local0), view cols (exec (.segset 4 0x06) local0)) =
      (some ([0xFF, 0, 0, 0], 0, 0), some ([0x80, 0, 0, 0], 0, 0)) := by decide
theorem test_radixon : view cols (exec (.radixon 3) local0) = some ([0x80, 0, 0, 0x80], 0, 0) := by decide
theorem test_radixoff : view cols (exec (.radixoff 0) local0) = some ([0, 0, 0, 0], 0, 0) := by decide
theorem test_radixtgl : view cols (exec (.radixtgl 0) local0) = some ([0, 0, 0, 0], 0, 0) := by decide
theorem test_fill_swap : view cols (exec (.fill 0x3F 3 0) local0) = some ([0xBF, 0x3F, 0x3F, 0x3F], 3, 0) := by decide
theorem test_fill_clamp_and_empty :
    (view cols (exec (.fill 0x3F 9 1) local0), view cols (exec (.fill 0x3F 7 9) local0)) =
      (some ([0x80, 0x3F, 0x3F, 0x3F], 3, 0), some ([0x80, 0, 0, 0], 0, 0)) := by decide
theorem test_clear : view cols (exec .clear (ready [0x80, 0x06, 0x86, 0] 0 [])) = some ([0x80, 0, 0x80, 0], 3, 0) := by decide
theorem test_fillall : view cols (exec .fillall local0) = some ([0xFF, 0x7F, 0x7F, 0x7F], 3, 0) := by decide
theorem test_getcur : view cols (exec .getcur (ready [0x3F, 6, 0x5B, 0x4F] 4 [])) = some ([0x3F, 6, 0x5B, 0x4F], 4, 4) := by
  decide
theorem test_setcur_bounds : (view cols (exec (.setcur 3) local0), view cols (exec (.setcur 4) local0)) =
    (some ([0x80, 0, 0, 0], 3, 0), some ([0x80, 0, 0, 0], 0, 0)) := by decide
theorem test_putc_glyph_and_unknown : (view cols (exec (.putc 0x31) local0), view cols (exec (.putc 0x78) local0)) =
    (some ([0x86, 0, 0, 0], 1, 1), some ([0x80, 0, 0, 0], 0, 0)) := by decide
theorem test_putc_radix_and_full :
    (view cols (exec (.putc 0x2C) (ready [0x3F, 6, 0x5B, 0x4F] 1 [])),
      view cols (exec (.putc 0x2E) (ready [0x3F, 6, 0x5B, 0x4F] 4 []))) =
      (some ([0xBF, 6, 0x5B, 0x4F], 1, 1), some ([0x3F, 6, 0x5B, 0x4F], 4, 0)) := by decide
theorem test_puts_radix : view cols (exec (.puts 5 [0x31, 0x32, 0x2E, 0x33, 0x34]) (ready [0, 0, 0, 0] 0 [])) =
    some ([0x06, 0xDB, 0x4F, 0x66], 4, 5) := by decide
theorem test_puts_overflow : view cols (exec (.puts 6 [0x31, 0x32, 0x33, 0x34, 0x35, 0x36]) (ready [0, 0, 0, 0] 0 [])) =
    some ([0x06, 0x5B, 0x4F, 0x66], 4, 4) := by decide

/-! ## ProtocolEngine (95 §2.4) -/

/-- The bus events of V-P1, as listed there. -/
def vp1 : List Event :=
  [.dio true, .clk true, .dio false, .clk false,
    .dio true, .clk true, .clk false, .dio true, .clk true, .clk false,
    .dio false, .clk true, .clk false, .dio true, .clk true, .clk false,
    .dio false, .clk true, .clk false, .dio false, .clk true, .clk false,
    .dio false, .clk true, .clk false, .dio true, .clk true, .clk false,
    .rel, .clk true, .poll .ack, .clk false, .clk false, .dio false, .clk true, .dio true]

/-- V-P1. -/
theorem test_sendcmd_trace :
    view State.trace (exec (.sendcmd 0x8B) (ready [0, 0, 0, 0] 0 [.ack])) = some vp1 := by decide +kernel
/-- V-P2. -/
theorem test_sendcmd_nak : view bus (exec (.sendcmd 0x40) (ready [0, 0, 0, 0] 0 [.nak])) =
    some ⟨some 0x02000000, [[0x40]], 36⟩ := by decide +kernel
/-- V-P5 and V-P4. -/
theorem test_sendcmdb_naks :
    (view bus (exec (.sendcmdb 0xC1 0x06) (ready [0, 0, 0, 0] 0 [.ack, .nak])),
      view bus (exec (.sendcmdb 0xC1 0x06) (ready [0, 0, 0, 0] 0 [.nak]))) =
      (some ⟨some 0x02000000, [[0xC1, 0x06]], 65⟩, some ⟨some 0x02000000, [[0xC1]], 36⟩) := by decide +kernel
/-- V-S5 with four digits, and V-P7. -/
theorem test_sendbuf_reordered_and_nak :
    (view bus (exec (.sendbuf 0xC0 3 (some [2, 0, 1, 9])) (ready [0x11, 0x22, 0x33, 0] 0 [.ack, .ack, .ack, .ack])),
      view bus (exec (.sendbuf 0xC0 4 none) (ready [1, 2, 3, 4] 0 [.ack, .ack, .nak]))) =
      (some ⟨some 0, [[0xC0, 0x33, 0x11, 0x22]], 123⟩, some ⟨some 0x02000000, [[0xC0, 1, 2]], 94⟩) := by decide +kernel
/-- V-P10 and V-P11. -/
theorem test_sendbuf_faults :
    (view faultAndTrace (exec (.sendbuf 0xC0 5 none) (ready [1, 2, 3, 4] 0 [])),
      view faultAndTrace (exec (.sendbuf 0xC0 2 (some [0, 4, 9, 9])) (ready [1, 2, 3, 4] 0 []))) =
      (some (some (.badCount 5), [], 0), some (some (.badReorder 1), [], 0)) := by decide

/-! ## DisplayController (95 §2.5) -/

/-- V-C1 and V-C2. -/
theorem test_init :
    view (fun t => (t.buf, t.contrast, bus t)) (exec .init (fresh [.ack])) =
      some ([0, 0, 0, 0], 3, ⟨some 0, [[0x8B]], 39⟩) ∧
    view (fun t => (t.power, t.ctrl)) (exec .init (fresh [.ack])) = some (.on, .ready) ∧
    view (fun t => (t.buf, t.contrast, bus t)) (exec .init (fresh [.nak])) =
      some ([0, 0, 0, 0], 3, ⟨some 0x02000000, [[0x8B]], 39⟩) ∧
    view (fun t => (t.power, t.ctrl)) (exec .init (fresh [.nak])) = some (.off, .uninitialized) := by decide +kernel
/-- V-S7. -/
theorem test_init_pins : view bus (exec .init { fresh [] with cfg := { vecCfg with clkPin := 5, dioPin := 5 } }) =
    some ⟨some 0x01000000, [], 0⟩ := by decide +kernel
/-- V-C10 and V-C11. -/
theorem test_commit_naks :
    (view bus (exec (.commit none) (ready [6, 0x5B, 0x4F, 0x66] 0 [.nak, .ack, .ack, .ack, .ack, .ack])),
      view bus (exec (.commit none) (ready [6, 0x5B, 0x4F, 0x66] 0 [.ack, .ack, .ack, .nak]))) =
      (some ⟨some 0x02000000, [[0x40], [0xC0, 6, 0x5B, 0x4F, 0x66]], 188⟩,
        some ⟨some 0x02000000, [[0x40], [0xC0, 6, 0x5B]], 130⟩) := by decide +kernel
/-- V-C12. -/
theorem test_commit_reordered :
    view bus (exec (.commit (some [3, 2, 1, 0])) (ready [6, 0x5B, 0x4F, 0x66] 0 (List.replicate 6 .ack))) =
      some ⟨some 0, [[0x40], [0xC0, 0x66, 0x4F, 0x5B, 6]], 188⟩ := by decide +kernel
/-- R225: the first row of P3 turned round, and V-C14. -/
theorem test_pwron :
    (view (fun t => (t.power, bus t)) (exec .pwron (ready [0, 0, 0, 0] 0 [.ack])),
      view faultAndTrace (exec .pwron (fresh []))) =
      (some (.on, ⟨some 0, [[0x8B]], 36⟩), some (some (.notReady 0x32), [], 0)) := by decide +kernel
/-- V-C4. -/
theorem test_pwroff_nak :
    view (fun t => (t.power, bus t)) (exec .pwroff { ready [0, 0, 0, 0] 0 [.nak] with power := .on }) =
      some (.on, ⟨some 0x02000000, [[0x83]], 36⟩) := by decide +kernel
/-- V-C5 and V-C6. -/
theorem test_toggle :
    (view (fun t => (t.power, bus t)) (exec .toggle (ready [0, 0, 0, 0] 0 [.ack])),
      view (fun t => (t.power, bus t)) (exec .toggle { ready [0, 0, 0, 0] 0 [.ack] with power := .on })) =
      (some (.on, ⟨some 0, [[0x8B]], 36⟩), some (.off, ⟨some 0, [[0x83]], 36⟩)) := by decide +kernel
/-- V-C8. -/
theorem test_setcontrast_nak :
    view (fun t => (t.contrast, t.power, bus t)) (exec (.setcontrast 200) (ready [0, 0, 0, 0] 0 [.nak])) =
      some (7, .off, ⟨some 0x02000000, [[0x8F]], 36⟩) := by decide +kernel

/-! ## Bus command bytes: the frame of V-P1 (R184, log 8) -/

theorem test_busDataCmd : view bus (exec (.busDataCmd 0 false false 0) (ready [0, 0, 0, 0] 0 [.ack])) =
    some ⟨none, [[0x40]], 36⟩ := by decide +kernel
theorem test_busDisplayCtrl :
    view (fun t => (t.power, t.lastCmd, bus t)) (exec (.busDisplayCtrl 0 true 3) (ready [0, 0, 0, 0] 0 [.ack])) =
      some (.off, some 0x8B, ⟨none, [[0x8B]], 36⟩) := by decide +kernel
theorem test_busAddress : view bus (exec (.busAddress 0 5) (ready [0, 0, 0, 0] 0 [.nak])) =
    some ⟨none, [[0xC5]], 36⟩ := by decide +kernel

/-! ## The step on a table word -/

theorem test_step_segset : view (fun t => (t.hostIndex, t.responses)) (step (State.reset.withFetchWord 32 0x01010600)) =
    some (1, [0x00000000]) := by decide +kernel
theorem test_step_init : view (fun t => (t.hostIndex, t.lastCmd)) (step ((fresh [.ack]).withFetchWord 32 0x30000000)) =
    some (1, some 0x8B) := by decide +kernel
theorem test_step_bus : view (fun t => (t.fault, t.trace.length)) (step (State.reset.withFetchWord 8 0x8B)) =
    some (some (.notReady 0x8B), 0) := by decide +kernel

/-! ## Witnesses: states and operands that meet the hypotheses of each obligation, clause by clause -/

/-- The common setup with another digit count. -/
def sized (digits : Nat) : State := State.construct { vecCfg with digits := digits }

/-- A ready engine whose trace shows the idle bus, with a request presented. -/
def idleBus (item : PortItem) : State :=
  { ready [1, 2, 3, 4] 1 [.ack, .nak] with trace := [.dio true, .clk true], hostPending := [item] }

theorem fresh_inv : (fresh []).Inv :=
  ⟨by decide, by decide, by decide, ⟨rfl, rfl, rfl, rfl⟩, .inr ⟨⟨rfl, rfl⟩, rfl⟩, rfl⟩

theorem idleBus_inv (item : PortItem) : (idleBus item).Inv :=
  ⟨show vecCfg.valid by decide, rfl, show (1#3).toNat ≤ 4 by decide, ⟨rfl, rfl, rfl, rfl⟩, .inl ⟨rfl, rfl⟩, rfl⟩

theorem idleBus_busInv (item : PortItem) : (idleBus item).BusInv :=
  ⟨fun _ => ⟨rfl, rfl, rfl, rfl⟩, fun h => absurd h.1 (by simp [idleBus, ready]), rfl⟩

/-- A font entry found, and one lacked, at the ends of the table of 95_test_vectors.md §0. -/
theorem vec_finds_last : FontFinds vecCfg.font 0x2D 0x40 := ⟨10, 0xC0, by decide, by decide, by decide, by decide, by decide⟩
theorem vec_finds_first : FontFinds vecCfg.font 0x30 0x3F := ⟨0, 0x3F, by decide, by decide, by decide, by decide, by decide⟩
theorem vec_lacks (c : Byte) (h : c ∈ [0x41#8, 0x2E, 0x2C, 0x3A, 0x78]) : FontLacks vecCfg.font c := by
  unfold FontLacks
  revert c
  decide

theorem witness_UnusedFieldsAreIgnored :
    decode (.request 0x22C003FE []) = .ok (.sendbuf 0xC0 3 none) ∧
      (0x22C00300 : Word) &&& 0xFFFFFF01 = 0x22C003FE &&& 0xFFFFFF01 ∧ (0x22C00300 : Word) ≠ 0x22C003FE := by
  exact ⟨rfl, by decide, by decide⟩

/-- The ends of each undefined range are undefined, and their neighbours are not. -/
theorem witness_UndefinedOpcodesRaiseIllegalRequest :
    (∀ op ∈ [0x00#8, 0x0C, 0x0F, 0x11, 0x1F, 0x23, 0x2F, 0x36, 0xFF],
      view faultAndTrace (step { fresh [] with hostPending := [.request (packWord op 0 0 0) []] }) =
        some (some (.illegalRequest op), [], 0)) ∧
    (∀ op ∈ [0x01#8, 0x0B, 0x10, 0x20, 0x22, 0x30, 0x35], (decoded (.request (packWord op 0 0 0) [])).isSome) := by
  decide +kernel

/-- A request of each sort of the third clause: a fault, a bus result, and local data. -/
theorem witness_ResponseWordFields :
    (∃ t, exec (.sendbuf 0xC0 5 none) local0 = .next t ∧ local0.fault = none ∧ t.fault ≠ none ∧
        isBusCommand (.sendbuf 0xC0 5 none) = false) ∧
      (∃ t, exec (.sendcmd 0x40) (ready [0, 0, 0, 0] 0 [.nak]) = .next t ∧ t.fault = none ∧
        busRequestOp (.sendcmd 0x40) = some 0x20) ∧
      (∃ t, exec (.puts 1 [0x31]) local0 = .next t ∧ t.fault = none ∧ isLocalRequest (.puts 1 [0x31]) = true) :=
  ⟨⟨_, rfl, rfl, by decide, rfl⟩, ⟨_, rfl, rfl, rfl⟩, _, rfl, rfl, rfl⟩

theorem witness_StepRunsTheDecodedInstruction :
    (idleBus (.request 0x0B010000 [0x2E])).fault = none ∧
      (idleBus (.request 0x0B010000 [0x2E])).hostPending = .request 0x0B010000 [0x2E] :: [] ∧
      decode (.request 0x0B010000 [0x2E]) = .ok (.puts 1 [0x2E]) ∧ (Instr.puts 1 [0x2E]).wellFormed 4 = true :=
  ⟨rfl, rfl, rfl, rfl⟩

theorem witness_StepOutsideExecution :
    (raise (.badCount 5) (fresh [])).fault = some (.badCount 5) ∧
      ((fresh []).fault = none ∧ (fresh []).hostPending = []) ∧
      (decode (.request 0x0B010000 []) = .ok (.puts 1 []) ∧ (Instr.puts 1 []).wellFormed 4 = false) ∧
      ((idleBus (.busCommand 0x3F)).fault = none ∧ (0x3F#8).toNat < 0x40) :=
  ⟨rfl, ⟨rfl, rfl⟩, ⟨rfl, rfl⟩, rfl, by decide⟩

theorem witness_EveryRequestCompletesInOneStep :
    (idleBus (.request 0x22C00501 [0, 4, 9, 9])).Inv ∧ (idleBus (.request 0x22C00501 [0, 4, 9, 9])).fault = none ∧
      decode (.request 0x22C00501 [0, 4, 9, 9]) = .ok (.sendbuf 0xC0 5 (some [0, 4, 9, 9])) ∧
      (Instr.sendbuf 0xC0 5 (some [0, 4, 9, 9])).wellFormed 4 = true :=
  ⟨idleBus_inv _, rfl, rfl, rfl⟩

theorem witness_LookupReturnsFirstMatch :
    FontFinds (fresh []).cfg.font 0x2D 0x40 ∧ FontLacks (fresh []).cfg.font 0x41 :=
  ⟨vec_finds_last, vec_lacks _ (by decide)⟩

theorem witness_TrailingFontByteIsIgnored :
    ([] : Memory).length % 2 = 0 ∧ (vecCfg.font.take 24).length % 2 = 0 := by decide

theorem witness_FillWritesTheClampedRange :
    (min 3 0 ≤ min (max 3 0) (vecCfg.digits - 1)) ∧ (min 3 3 ≤ min (max 3 3) (vecCfg.digits - 1)) ∧
      (min (max 4 4) (vecCfg.digits - 1) < min 4 4) ∧ (sized 1).cfg.valid ∧ (sized 6).cfg.valid := by decide

theorem witness_ClearAndFillallWriteEveryDigit : (sized 1).cfg.valid ∧ (sized 6).cfg.valid := by decide

theorem witness_ShorthandRequestsAgree :
    (idleBus (.request 0 [])).cfg.valid ∧ (idleBus (.request 0 [])).ctrl = .ready := by decide

theorem witness_SegmentAndRadixUpdatesCommute :
    ∃ t u t' u', (3#8).toNat < local0.cfg.digits ∧ Memory.wf local0.cfg.digits local0.buf ∧
      exec (.segset 3 0xFF) local0 = .next t ∧ exec (.radixon 3) t = .next u ∧
      exec (.radixon 3) local0 = .next t' ∧ exec (.segset 3 0xFF) t' = .next u' :=
  ⟨_, _, _, _, by decide, by decide, rfl, rfl, rfl, rfl⟩

theorem witness_CursorRequests :
    local0.cfg.valid ∧ (3#8).toNat < local0.cfg.digits ∧ local0.cfg.digits ≤ (4#8).toNat := by decide

/-- One witness for each of the four cases, at the ends of the cursor's range. -/
theorem witness_PutcWritesGlyphOrRadix :
    (ready [0, 0, 0, 0] 4 []).cfg.valid ∧ (ready [0, 0, 0, 0] 4 []).cfg.digits ≤ (4#3).toNat ∧
      ((3#3).toNat < vecCfg.digits ∧ FontFinds vecCfg.font 0x2D 0x40) ∧
      ((1#3).toNat < vecCfg.digits ∧ FontLacks vecCfg.font 0x3A ∧ 0 < (1#3).toNat) ∧
      ((0#3).toNat < vecCfg.digits ∧ FontLacks vecCfg.font 0x3A ∧ (0#3).toNat = 0) ∧
      ((3#3).toNat < vecCfg.digits ∧ FontLacks vecCfg.font 0x78 ∧ ¬ (0x78#8 = 0x2E ∨ 0x78#8 = 0x2C ∨ 0x78#8 = 0x3A)) :=
  ⟨by decide, by decide, ⟨by decide, vec_finds_last⟩, ⟨by decide, vec_lacks _ (by decide), by decide⟩,
    ⟨by decide, vec_lacks _ (by decide), by decide⟩, by decide, vec_lacks _ (by decide), by decide⟩

theorem witness_PutsIsRepeatedPutc :
    (1#8).toNat = ([] : Memory).length + 1 ∧ (255#8).toNat = (List.replicate 254 (0x31 : Byte)).length + 1 :=
  ⟨rfl, by rw [List.length_replicate]; rfl⟩

theorem witness_LocalRequestsLeaveBusAndStatusAlone :
    ∃ t, isLocalRequest (.fill 0x3F 3 0) = true ∧ exec (.fill 0x3F 3 0) local0 = .next t := ⟨_, rfl, rfl⟩

theorem witness_SegmentsAndRadixAreIndependent :
    (∃ t after, exec (.segset 0 0x7F) local0 = .next t ∧ local0.buf[0]? = some 0x80 ∧ t.buf[0]? = some after) ∧
      (∃ t after, exec (.radixtgl 3) local0 = .next t ∧ local0.buf[3]? = some 0 ∧ t.buf[3]? = some after) :=
  ⟨⟨_, _, rfl, rfl, rfl⟩, _, _, rfl, rfl, rfl⟩

theorem witness_BusRequestsNeedReady :
    busRequestOp .pwron = some 0x32 ∧ (fresh []).ctrl = .uninitialized ∧
      ∃ t, exec .pwron (fresh []) = .next t ∧ (fresh []).fault = none ∧ t.fault = some (.notReady 0x32) ∧
        isBusCommand .pwron = false :=
  ⟨rfl, rfl, _, rfl, rfl, rfl, rfl⟩

theorem witness_SendcmdRequestsSendOneFrame :
    (fresh []).ctrl = .uninitialized ∧ (ready [0, 0, 0, 0] 0 [.nak]).ctrl = .ready := ⟨rfl, rfl⟩

/-- The gather's boundary values: count 0, and count `DIGITS` with the last entry at `DIGITS - 1`. -/
theorem witness_SendbufSendsBufferBytes :
    local0.ctrl = .ready ∧ Memory.wf local0.cfg.digits local0.buf ∧ (4#8).toNat ≤ local0.cfg.digits ∧
      SourcesInRange local0 none 4 ∧ SourcesInRange local0 (some [0, 0, 3, 3]) 4 ∧ SourcesInRange local0 (some [9, 9, 9, 9]) 0 := by
  refine ⟨rfl, rfl, by decide, fun i hi => ⟨i, rfl, hi⟩, fun i hi => ?_, fun i hi => absurd hi (Nat.not_lt_zero i)⟩
  obtain rfl | rfl | rfl | rfl : i = 0 ∨ i = 1 ∨ i = 2 ∨ i = 3 := by omega
  all_goals exact ⟨_, rfl, by decide⟩

/-- Count one too many, and a first failing entry at each end of the range. -/
theorem witness_OutOfRangeOperandsRaise :
    local0.ctrl = .ready ∧ local0.cfg.digits < (5#8).toNat ∧
      (([4, 9, 9, 9] : Memory)[0]? = some 4 ∧ local0.cfg.digits ≤ (4#8).toNat ∧ SourcesInRange local0 (some [4, 9, 9, 9]) 0) ∧
      (([0, 1, 2, 6] : Memory)[3]? = some 6 ∧ local0.cfg.digits ≤ (6#8).toNat ∧ SourcesInRange local0 (some [0, 1, 2, 6]) 3 ∧
        3 < (4#8).toNat ∧ (4#8).toNat ≤ local0.cfg.digits ∧ 3 < local0.cfg.digits) := by
  refine ⟨rfl, by decide, ⟨rfl, by decide, fun i hi => absurd hi (Nat.not_lt_zero i)⟩, rfl, by decide, fun i hi => ?_,
    by decide, by decide, by decide⟩
  obtain rfl | rfl | rfl : i = 0 ∨ i = 1 ∨ i = 2 := by omega
  all_goals exact ⟨_, rfl, by decide⟩

theorem witness_InitConfiguresAndPowersOn :
    (fresh []).cfg.clkPin ≠ (fresh []).cfg.dioPin ∧
      (State.construct { vecCfg with clkPin := 5, dioPin := 5 }).cfg.clkPin =
        (State.construct { vecCfg with clkPin := 5, dioPin := 5 }).cfg.dioPin := by decide

theorem witness_InitIsIdempotent :
    ∃ t t', (fresh [.ack]).cfg = (ready [1, 2, 3, 4] 3 [.ack]).cfg ∧ exec .init (fresh [.ack]) = .next t ∧
      exec .init (ready [1, 2, 3, 4] 3 [.ack]) = .next t' ∧
      t.lastResult = some .success ∧ t'.lastResult = some .success :=
  ⟨_, _, rfl, rfl, rfl, rfl, rfl⟩

theorem witness_PowerRequestsFollowSuccess :
    (fresh []).ctrl = .uninitialized ∧ local0.ctrl = .ready ∧ Power.on ≠ local0.power := by decide

theorem witness_SetcontrastClampsAndPowersOn :
    (fresh []).ctrl = .uninitialized ∧ local0.ctrl = .ready := by decide

theorem witness_CommitSendsTwoFrames :
    (fresh []).ctrl = .uninitialized ∧ local0.ctrl = .ready ∧ Memory.wf local0.cfg.digits local0.buf ∧
      SourcesInRange local0 none local0.cfg.digits :=
  ⟨rfl, rfl, rfl, fun i hi => ⟨i, rfl, hi⟩⟩

theorem witness_CommitPutsTheBufferOnTheWire :
    (ready [6, 0xDB, 0x4F, 0x66] 4 (List.replicate 6 .ack)).ctrl = .ready ∧
      allAck (ready [6, 0xDB, 0x4F, 0x66] 4 (List.replicate 6 .ack)) 6 := by
  refine ⟨rfl, fun k hk => ?_⟩
  obtain rfl | rfl | rfl | rfl | rfl | rfl : k = 0 ∨ k = 1 ∨ k = 2 ∨ k = 3 ∨ k = 4 ∨ k = 5 := by omega
  all_goals rfl

theorem witness_BusCommandsAreFramed :
    isBusCommand (.busDisplayCtrl 0 true 3) = true ∧ encode (.busDisplayCtrl 0 true 3) = .busCommand 0x8B ∧
      (fresh []).ctrl = .uninitialized ∧ local0.ctrl = .ready := by decide

theorem witness_ResetValues : (sized 1).cfg.valid ∧ (sized 6).cfg.valid := by decide

theorem witness_InvalidConfigurationTakesNoRequest :
    ¬ (1 ≤ (sized 0).cfg.digits ∧ (sized 0).cfg.digits ≤ 6) ∧
      ¬ (1 ≤ (sized 7).cfg.digits ∧ (sized 7).cfg.digits ≤ 6) ∧
      (1 ≤ (sized 1).cfg.digits ∧ (sized 6).cfg.digits ≤ 6) := by decide

theorem witness_EveryStepKeepsTheInvariants :
    ∃ t, (idleBus (.request 0x31000000 [])).Inv ∧ step (idleBus (.request 0x31000000 [])) = .next t :=
  ⟨_, idleBus_inv _, rfl⟩

theorem witness_EveryStepKeepsTheBusInvariants :
    ∃ t, (idleBus (.request 0x208B0000 [])).Inv ∧ (idleBus (.request 0x208B0000 [])).BusInv ∧
      step (idleBus (.request 0x208B0000 [])) = .next t :=
  ⟨_, idleBus_inv _, idleBus_busInv _, rfl⟩

theorem witness_ConfigurationReadyAndTracePersist :
    ∃ t, step (idleBus (.request 0x30000000 [])) = .next t ∧ (idleBus (.request 0x30000000 [])).ctrl = .ready :=
  ⟨_, rfl, rfl⟩

theorem witness_FaultsArePrecise :
    ∃ t, step (idleBus (.request 0x22C00500 [])) = .next t ∧ t.fault = some (.badCount 5) := ⟨_, rfl, rfl⟩

/-- One instruction that writes each register. -/
theorem witness_RegistersHaveTheirWriters :
    (∃ t, exec (.fill 0x3F 3 0) local0 = .next t ∧ t.buf ≠ local0.buf ∧ t.cursor ≠ local0.cursor) ∧
      (∃ t, exec (.setcontrast 5) (ready [0, 0, 0, 0] 0 [.ack]) = .next t ∧
        t.contrast ≠ 3 ∧ t.power ≠ .off ∧ t.lastResult ≠ none ∧ t.lastCmd ≠ none) ∧
      (∃ t, exec .init (fresh [.ack]) = .next t ∧ t.ctrl ≠ .uninitialized) :=
  ⟨⟨_, rfl, by decide, by decide⟩, ⟨_, rfl, by decide, by decide, by decide, by decide⟩, _, rfl, by decide⟩

theorem witness_AnswersDoNotReachTheBuffer :
    ∃ t, step (idleBus (.request 0x31000000 [])) = .next t := ⟨_, rfl⟩

theorem witness_AckWaitsAreBounded :
    ∃ t, (idleBus (.request 0x31000000 [])).Inv ∧ step (idleBus (.request 0x31000000 [])) = .next t :=
  ⟨_, idleBus_inv _, rfl⟩

end Sys2Proof.Tests
end

namespace Sys2Proof.Machine

/-- Settles O23. `frame_sendsFrames`, by induction over the bytes sent, gives the events of a frame as `frameEvents` of its
transcript; `sendsFrames_one`, by induction over that transcript, has a monitor on an idle bus read them as one frame. -/
theorem monitorReadsEveryFrame : Obligations.MonitorReadsEveryFrame := by
  intro s cmd data
  have hevents := frame_sendsFrames cmd data s
  exact sendsFrames_one hevents

end Sys2Proof.Machine

namespace Sys2Proof

/-! The bits of a request word that its request uses (R91 to R93), and the OPs that the decoder knows (R94). -/

/-- The bits of a request word with this OP that its request uses (R91, R92): OP, and the operand fields named there. -/
def usedMask (op : Byte) : Word :=
  match op.toNat with
  | 0x01 => packWord 0xFF 0xFF 0xFF 0
  | 0x02 => packWord 0xFF 0xFF 0 0
  | 0x03 => packWord 0xFF 0xFF 0 0
  | 0x04 => packWord 0xFF 0xFF 0 0
  | 0x05 => packWord 0xFF 0xFF 0xFF 0xFF
  | 0x09 => packWord 0xFF 0xFF 0 0
  | 0x0A => packWord 0xFF 0xFF 0 0
  | 0x0B => packWord 0xFF 0xFF 0 0
  | 0x10 => packWord 0xFF 0xFF 0 0
  | 0x20 => packWord 0xFF 0xFF 0 0
  | 0x21 => packWord 0xFF 0xFF 0xFF 0
  | 0x22 => packWord 0xFF 0xFF 0xFF 1
  | 0x31 => packWord 0xFF 0 0 1
  | 0x35 => packWord 0xFF 0xFF 0 0
  | _ => packWord 0xFF 0 0 0

/-- The word with every bit that its request does not use zero. -/
def usedPart (w : Word) : Word := w &&& usedMask (opField w)

@[simp] theorem opField_and (v w : Word) : opField (v &&& w) = opField v &&& opField w := BitVec.extractLsb'_and ..

@[simp] theorem aField_and (v w : Word) : aField (v &&& w) = aField v &&& aField w := BitVec.extractLsb'_and ..

@[simp] theorem bField_and (v w : Word) : bField (v &&& w) = bField v &&& bField w := BitVec.extractLsb'_and ..

@[simp] theorem cField_and (v w : Word) : cField (v &&& w) = cField v &&& cField w := BitVec.extractLsb'_and ..

@[simp] theorem rFlag_and (v w : Word) : rFlag (v &&& w) = (rFlag v && rFlag w) := BitVec.getLsbD_and ..

/-- A word is the four fields it is made of (R90, R95). -/
theorem packWord_fields (w : Word) : packWord (opField w) (aField w) (bField w) (cField w) = w := by
  apply BitVec.eq_of_getLsbD_eq
  intro i hi
  simp only [packWord_getLsbD, opField, aField, bField, cField, BitVec.getLsbD_extractLsb']
  split
  · simp [*]
  · split
    · simp [*, show 8 + (i - 8) = i by omega]
    · split
      · simp [*, show 16 + (i - 8 - 8) = i by omega]
      · simp [show i - 8 - 8 - 8 < 8 by omega, show 24 + (i - 8 - 8 - 8) = i by omega]

@[simp] theorem opField_usedMask (op : Byte) : opField (usedMask op) = 0xFF := by
  unfold usedMask
  split <;> exact opField_packWord _ _ _ _

/-- `BitVec.and_allOnes` for the literal in which the masks of whole fields are written. -/
theorem byte_and_255 (b : Byte) : b &&& 255#8 = b := BitVec.and_allOnes

theorem opField_usedPart (w : Word) : opField (usedPart w) = opField w := by
  simp [usedPart, byte_and_255]

theorem rFlag_eq_cField_bit (w : Word) : rFlag w = (cField w).getLsbD 0 := by
  simp [rFlag, cField]

/-- What is left of field C under the reorder flag's mask is the byte that the encoder writes there. -/
theorem reorderFlagByte_reorderOperand (w : Word) (operand : Memory) :
    reorderFlagByte (reorderOperand w operand) = cField w &&& 1#8 := by
  have hbit : ∀ c : Byte, (if c.getLsbD 0 then 1#8 else 0#8) = c &&& 1#8 := by decide
  rw [← hbit, ← rFlag_eq_cField_bit]
  unfold reorderFlagByte reorderOperand
  cases rFlag w <;> rfl

/-- The decoder reads the used part of a word alone (R93). -/
theorem decodeRequest_usedPart (w : Word) (operand : Memory) :
    decodeRequest (usedPart w) operand = decodeRequest w operand := by
  unfold decodeRequest
  rw [opField_usedPart]
  split <;> rename_i hop <;>
    simp [usedPart, usedMask, hop, byte_and_255, reorderOperand]

/-- The used part, field by field. -/
theorem usedPart_eq_packWord (w : Word) :
    usedPart w = packWord (opField w) (aField w &&& aField (usedMask (opField w)))
      (bField w &&& bField (usedMask (opField w))) (cField w &&& cField (usedMask (opField w))) := by
  rw [← packWord_fields (usedPart w), opField_usedPart]
  simp only [usedPart, aField_and, bField_and, cField_and]

/-- The encoder writes a decoded request back with every unused bit zero (R93, R96). -/
theorem encode_of_decodeRequest (w : Word) (operand : Memory) (i : Instr) (h : decodeRequest w operand = .ok i) :
    ∃ rest, encode i = .request (usedPart w) rest := by
  rw [usedPart_eq_packWord]
  unfold decodeRequest at h
  have hopByte : BitVec.ofNat 8 (opField w).toNat = opField w := by simp
  split at h <;> rename_i hop <;> cases h
  all_goals
    rw [hop] at hopByte
    simp [encode, usedMask, ← hopByte, byte_and_255, reorderFlagByte_reorderOperand]

/-- Words that agree on the bits that one of them uses have the same used part. -/
theorem usedPart_congr {w w' : Word} (h : w' &&& usedMask (opField w) = w &&& usedMask (opField w)) :
    usedPart w' = usedPart w := by
  have hop : opField w' = opField w := by
    have := congrArg opField h
    simpa [byte_and_255] using this
  rw [usedPart, hop, h, usedPart]

/-- The OPs that R94 lists as undefined. -/
def UndefinedOp (op : Nat) : Prop :=
  op = 0x00 ∨ (0x0C ≤ op ∧ op ≤ 0x0F) ∨ (0x11 ≤ op ∧ op ≤ 0x1F) ∨ (0x23 ≤ op ∧ op ≤ 0x2F) ∨ (0x36 ≤ op ∧ op ≤ 0xFF)

/-- The decoder knows every OP that R94 does not list, and no other. -/
theorem decodeRequest_total (w : Word) (operand : Memory) :
    (¬ UndefinedOp (opField w).toNat ∧ ∃ i, decodeRequest w operand = .ok i) ∨
      (UndefinedOp (opField w).toNat ∧ decodeRequest w operand = .error (.undefinedOpcode (opField w))) := by
  have hlt : (opField w).toNat < 256 := (opField w).isLt
  unfold decodeRequest UndefinedOp
  split
  case h_22 =>
    refine .inr ⟨?_, rfl⟩
    simp only [imp_false] at *
    omega
  all_goals
    exact .inl ⟨by omega, _, rfl⟩

end Sys2Proof

namespace Sys2Proof.Machine

/-! The step on an undefined OP, the gate, and the response of each request (R100, R101). -/

/-- A step of an engine with no fault, on a port item that is no instruction. -/
theorem step_of_decode_error {s : State} {item : PortItem} {rest : List PortItem} {e : DecodeError}
    (hf : s.fault = none) (hp : s.hostPending = item :: rest) (hd : decode item = .error e) :
    step s = undecodable e s := by
  simp only [step, hf, fetchItem, hp, List.head?_cons, hd]

/-- A request gated by `CTRL` runs its body in a ready engine. -/
theorem requireReady_of_ready {op : Byte} {s : State} {body : Host.Outcome State Fault Refusal} (hr : s.ctrl = .ready) :
    requireReady op s body = body := by
  simp only [requireReady, hr]

/-- The fields of a response word (R100). -/
theorem responseWord_fields (r : TransmissionResult) (data : Byte) :
    (responseWord r data).extractLsb' 0 8 = data ∧ (responseWord r data).extractLsb' 8 16 = 0 ∧
      (responseWord r data).extractLsb' 24 8 = r.code := by
  rw [responseWord_eq]
  refine ⟨cField_packWord _ _ _ _, ?_, opField_packWord _ _ _ _⟩
  apply BitVec.eq_of_getLsbD_eq
  intro i hi
  rw [BitVec.getLsbD_extractLsb', packWord_getLsbD, if_neg (by omega)]
  split
  · simp
  · rw [if_pos (by omega)]
    simp

/-- `DATA` of the response to a FrameBuffer or FontTable request (R131, R150, R152, R158), and 0 for the requests that
have none (R100). -/
def localData (s : State) : Instr → Byte
  | .getcur => s.cursor.setWidth 8
  | .putc code => BitVec.ofNat 8 (writeChar code s).2
  | .puts n str => BitVec.ofNat 8 (writeString (str.take n.toNat) s).2
  | .lookup code => lookupData (lookup code s.cfg.font)
  | _ => 0

theorem localData_getcur (s : State) : (localData s .getcur).toNat = s.cursor.toNat := by
  have : s.cursor.toNat < 8 := s.cursor.isLt
  simp only [localData, BitVec.toNat_setWidth]
  omega

/-- A count of at most one character fits the `DATA` byte. -/
theorem localData_putc (code : Byte) (s : State) : (localData s (.putc code)).toNat = (writeChar code s).2 := by
  have := writeChar_count code s
  simp only [localData, BitVec.toNat_ofNat]
  omega

/-- A count of at most `n ≤ 255` characters fits the `DATA` byte. -/
theorem localData_puts (n : Byte) (str : Memory) (s : State) :
    (localData s (.puts n str)).toNat = (writeString (str.take n.toNat) s).2 := by
  have hcount := writeString_count (str.take n.toNat) s
  have hlen : (str.take n.toNat).length ≤ n.toNat := List.length_take_le _ _
  have hn : n.toNat < 256 := n.isLt
  simp only [localData, BitVec.toNat_ofNat]
  omega

theorem localData_eq_zero {i : Instr} (s : State) (hgetcur : i ≠ .getcur) (hlookup : ∀ code, i ≠ .lookup code)
    (hputc : ∀ code, i ≠ .putc code) (hputs : ∀ n str, i ≠ .puts n str) : localData s i = 0 := by
  unfold localData
  split
  · exact absurd rfl hgetcur
  · exact absurd rfl (hputc _)
  · exact absurd rfl (hputs _ _)
  · exact absurd rfl (hlookup _)
  · rfl

/-- No FrameBuffer or FontTable request is `INIT` or a bus request. -/
theorem not_busRequest_of_local {i : Instr} (hi : isLocalRequest i = true) :
    ¬ (i = .init ∨ ∃ op, busRequestOp i = some op) := by
  rintro (rfl | ⟨op, hop⟩)
  · cases hi
  · cases i <;> simp [isLocalRequest, busRequestOp] at hi hop

theorem placeCursor_frame (index : Nat) (s : State) :
    placeCursor index s =
      { s with buf := (placeCursor index s).buf, cursor := (placeCursor index s).cursor } := by
  unfold placeCursor
  split <;> rfl

/-- A response over a state `u` that is `s` but for `BUF` and `CURSOR`. -/
theorem respond_local {s t u : State} {data : Byte}
    (h : Host.Outcome.next (φ := Fault) (ρ := Refusal) (respond .success data u) = .next t)
    (hu : u = { s with buf := u.buf, cursor := u.cursor }) :
    ∃ buf cursor, t = respond .success data { s with buf := buf, cursor := cursor } :=
  ⟨u.buf, u.cursor, by rw [← hu, Host.Outcome.next.inj h]⟩

/-- A FrameBuffer or FontTable request writes `BUF` and `CURSOR` alone and returns `Success` with its data (R100, R159). -/
theorem exec_local {i : Instr} {s t : State} (hi : isLocalRequest i = true) (h : exec i s = .next t) :
    ∃ buf cursor, t = respond .success (localData s i) { s with buf := buf, cursor := cursor } := by
  cases i with
  | segset | radixon | radixoff | radixtgl | getcur | lookup => exact respond_local h rfl
  | fill | clear | fillall => exact respond_local h (fillSegments_frame _ _ _ _)
  | setcur index => exact respond_local h (placeCursor_frame _ _)
  | putc code => exact respond_local h (writeChar_frame _ _)
  | puts n str =>
    simp only [exec, execPuts] at h
    split at h
    · exact absurd h (by simp)
    · exact respond_local h (writeString_frame _ _)
  | _ => cases hi

/-- `INIT` or a bus request records a fault, or returns its result with data 0 and keeps the result in `LASTRESULT`
(R27, R100). -/
theorem exec_busRequest {i : Instr} {s t : State} (hlocal : isLocalRequest i = false) (hbus : isBusCommand i = false)
    (h : exec i s = .next t) :
    (∃ f, t = raise f s) ∨
      ∃ r, t.fault = s.fault ∧ t.responses = s.responses ++ [responseWord r 0] ∧ t.lastResult = some r := by
  cases exec_effect h with
  | notReady op | badOperand f => exact .inl ⟨_, rfl⟩
  | localRequest buf cursor data hi => exact absurd hi (by simp [hlocal])
  | pinsEqual => exact .inr ⟨_, rfl, rfl, rfl⟩
  | initialised =>
    rw [initialise_eq]
    exact .inr ⟨_, rfl, rfl, rfl⟩
  | sent cmd data op =>
    rw [sendFrame_eq]
    exact .inr ⟨_, rfl, rfl, rfl⟩
  | switched on =>
    rw [powerRequest_eq]
    exact .inr ⟨_, rfl, rfl, rfl⟩
  | contrastSet level =>
    rw [powerRequest_eq]
    exact .inr ⟨_, rfl, rfl, rfl⟩
  | committed reorder data =>
    rw [commitFrames_eq]
    exact .inr ⟨_, rfl, rfl, rfl⟩
  | busCommand cmd hi => exact absurd hi (by simp [hbus])

/-- Settles O2. The decoder reads the used part of a word alone (`decodeRequest_usedPart`), and words that agree on the used
bits have one used part (`usedPart_congr`), which is the word that the encoder writes (`encode_of_decodeRequest`). -/
theorem unusedFieldsAreIgnored : Obligations.UnusedFieldsAreIgnored := by
  intro w operand i h
  have hencode : ∃ rest, encode i = .request (usedPart w) rest := encode_of_decodeRequest w operand i h
  refine ⟨hencode, fun w' hw' => ?_⟩
  have hused : usedPart w' = usedPart w := usedPart_congr hw'
  calc decodeRequest w' operand = decodeRequest (usedPart w') operand := (decodeRequest_usedPart w' operand).symm
    _ = decodeRequest w operand := by rw [hused, decodeRequest_usedPart]
    _ = .ok i := h

/-- Settles O3, by the two cases of `decodeRequest_total`. -/
theorem undefinedOpcodesRaiseIllegalRequest : Obligations.UndefinedOpcodesRaiseIllegalRequest := by
  intro w operand
  obtain ⟨hdefined, hok⟩ | ⟨hundefined, herror⟩ := decodeRequest_total w operand
  · exact ⟨fun _ => hok, fun h => absurd h hdefined⟩
  · exact ⟨fun h => absurd hundefined h, fun _ s rest hf hp => step_of_decode_error hf hp herror⟩

/-- Settles O5. A local request returns `Success` with `localData` (`exec_local`); any other host request records a fault or
returns its result with data 0 (`exec_busRequest`). -/
theorem responseWordFields : Obligations.ResponseWordFields := by
  refine ⟨?_, fun r data s => respond_responses s r data, ?_⟩
  · intro r data
    obtain ⟨hdata, hzero, hcode⟩ := responseWord_fields r data
    exact ⟨hdata, hzero, hcode.trans (by cases r <;> rfl)⟩
  · intro i s t h hfault hbus
    cases hlocal : isLocalRequest i with
    | true =>
      obtain ⟨buf, cursor, rfl⟩ := exec_local hlocal h
      refine ⟨fun hf => absurd hfault hf, fun _ => ⟨.success, localData s i, rfl, ?_, fun _ => rfl, ?_, ?_, ?_, ?_, ?_⟩⟩
      · exact fun hi => absurd hi (not_busRequest_of_local hlocal)
      · rintro rfl
        exact localData_getcur s
      · rintro code rfl
        rfl
      · rintro code rfl
        exact localData_putc code s
      · rintro n str rfl
        exact localData_puts n str s
      · exact fun _ => localData_eq_zero s
    | false =>
      obtain ⟨f, rfl⟩ | ⟨r, htf, hresponses, hlast⟩ := exec_busRequest hlocal hbus h
      · exact ⟨fun _ => rfl, fun hf => absurd hf (by simp)⟩
      · refine ⟨fun hf => absurd (htf.trans hfault) hf, fun _ => ⟨r, 0, hresponses, fun _ => ⟨hlast, rfl⟩, ?_⟩⟩
        have hne : ∀ j, isLocalRequest j = true → i ≠ j := by
          rintro j hj rfl
          exact absurd hj (by simp [hlocal])
        exact ⟨nofun, fun hi => absurd hi (hne _ rfl), fun _ hi => absurd hi (hne _ rfl),
          fun _ hi => absurd hi (hne _ rfl), fun _ _ hi => absurd hi (hne _ rfl), nofun⟩

/-- Settles O16. `DIGITS - 1` fits an operand byte, so the whole-range fills are those of `CLEAR` and `FILLALL`; past the gate
`TOGGLE` is the power request for the level that `POWER` is not at. -/
theorem shorthandRequestsAgree : Obligations.ShorthandRequestsAgree := by
  intro s hvalid
  have hlast : (BitVec.ofNat 8 (s.cfg.digits - 1)).toNat = s.cfg.digits - 1 := by
    rw [BitVec.toNat_ofNat]
    have := hvalid.2
    omega
  refine ⟨?_, ?_, fun hready => ?_⟩
  · simp only [exec, execClear, execFill, hlast]
    rfl
  · simp only [exec, execFillall, execFill, hlast]
    rfl
  · simp only [exec, execToggle, execPwroff, execPwron, requireReady_of_ready hready]
    cases s.power <;> rfl

end Sys2Proof.Machine

namespace Sys2Proof.Machine

/-! The font lookup (40_font.md): what `LOOKUP` decodes to and answers, and a table of odd length. -/

/-- The decoder reads the code of `LOOKUP` from field A alone (R92, R131). -/
theorem decode_lookup (code b c : Byte) (operand : Memory) :
    decode (.request (packWord 0x10 code b c) operand) = .ok (.lookup code) := by
  simp [decode, decodeRequest]

/-- What `LOOKUP` returns, by what the lookup answers (R131). -/
theorem exec_lookup {s : State} {code : Byte} {found : Option Byte} (h : lookup code s.cfg.font = found) :
    exec (.lookup code) s = .next (respond .success (lookupData found) s) := by
  subst h
  rfl

/-- `LOOKUP` of a code that the font has returns its first mask (R131). -/
theorem exec_lookup_of_finds {s : State} {code mask : Byte} (h : FontFinds s.cfg.font code mask) :
    exec (.lookup code) s = .next (respond .success mask s) :=
  exec_lookup ((lookup_eq_some_iff _ _ _).mpr h)

/-- `LOOKUP` of a code that the font lacks returns the sentinel (R134). -/
theorem exec_lookup_of_lacks {s : State} {code : Byte} (h : FontLacks s.cfg.font code) :
    exec (.lookup code) s = .next (respond .success 0xFF s) :=
  exec_lookup ((lookup_eq_none_iff _ _).mpr h)

/-- A font has an entry for a code or lacks it. -/
theorem fontFinds_or_fontLacks (font : Memory) (code : Byte) :
    (∃ mask, FontFinds font code mask) ∨ FontLacks font code := by
  cases h : lookup code font with
  | some mask => exact .inl ⟨mask, (lookup_eq_some_iff _ _ _).mp h⟩
  | none => exact .inr ((lookup_eq_none_iff _ _).mp h)

/-- The lookup goes through a table two bytes at a time, so a last single byte is never compared (R133). -/
theorem lookup_append_of_even (code last : Byte) (font : Memory) (heven : font.length % 2 = 0) :
    lookup code (font ++ [last]) = lookup code font := by
  induction font using lookup.induct code with
  | case1 raw rest => simp only [List.cons_append, lookup, if_true]
  | case2 entryCode raw rest hne ih =>
    have hrest : rest.length % 2 = 0 := by
      simp only [List.length_cons] at heven
      omega
    simp only [List.cons_append, lookup, if_neg hne, ih hrest]
  | case3 x => simp at heven
  | case4 => rfl

/-- Settles O9. What the font finds or lacks is what `lookup` answers (`lookup_eq_some_iff`, `lookup_eq_none_iff`), and a mask
found has bit 7 clear. -/
theorem lookupReturnsFirstMatch : Obligations.LookupReturnsFirstMatch := by
  intro s code b c operand
  refine ⟨decode_lookup code b c operand, fun mask hfinds => ⟨?_, exec_lookup_of_finds hfinds⟩, exec_lookup_of_lacks,
    fontFinds_or_fontLacks _ _⟩
  exact lookup_radix_clear _ _ _ ((lookup_eq_some_iff _ _ _).mpr hfinds)

/-- Settles O10. The lookup of the longer table is that of the shorter (`lookup_append_of_even`), and it determines the
entries found (`lookup_eq_some_iff`). -/
theorem trailingFontByteIsIgnored : Obligations.TrailingFontByteIsIgnored := by
  intro font last code heven
  have hlookup : lookup code (font ++ [last]) = lookup code font := lookup_append_of_even code last font heven
  refine ⟨fun mask => ?_, hlookup⟩
  rw [← lookup_eq_some_iff, hlookup, lookup_eq_some_iff]

end Sys2Proof.Machine

namespace Sys2Proof.Machine

/-! The FrameBuffer requests (41_framebuffer.md): one equation for each, from the laws of the buffer operations. -/

/-- `CURSOR` holds every value up to `DIGITS` in a valid configuration (R23, log 17). -/
theorem toNat_cursor_ofNat {cfg : Config} {n : Nat} (hvalid : cfg.valid) (hn : n ≤ cfg.digits) :
    (BitVec.ofNat 3 n).toNat = n := by
  have hdigits : cfg.digits ≤ 6 := hvalid.2
  rw [BitVec.toNat_ofNat]
  omega

/-- The answer of a request that updates one digit (R141 to R144). -/
theorem next_respond_updateDigit (i : Nat) (f : Byte → Byte) (data : Byte) (s : State) :
    Host.Outcome.next (φ := Fault) (ρ := Refusal) (respond .success data (updateDigit i f s)) =
      .next (respond .success data { s with buf := digitsMapped s (· = i) f }) := by
  rw [updateDigit_eq]

/-- Settles O11, by the law of `updateDigit`. -/
theorem segsetWritesOneDigit : Obligations.SegsetWritesOneDigit := by
  intro s index mask c operand
  exact ⟨by simp [decode, decodeRequest], next_respond_updateDigit index.toNat (withSegments mask) 0 s⟩

/-- Settles O12, by the law of `updateDigit`. -/
theorem radixRequestsWriteOneBit : Obligations.RadixRequestsWriteOneBit := by
  intro s index b c operand
  refine ⟨?_, ?_, ?_, next_respond_updateDigit index.toNat radixSet 0 s,
    next_respond_updateDigit index.toNat radixClear 0 s, next_respond_updateDigit index.toNat radixFlip 0 s⟩
  all_goals simp [decode, decodeRequest]

/-! `FILL`, `CLEAR` and `FILLALL`. -/

/-- The order of the bounds does not matter, since the swap comes before the clamp (R146). -/
theorem fillSegments_comm (mask : Byte) (a b : Nat) (s : State) : fillSegments mask a b s = fillSegments mask b a s := by
  rw [fillSegments_eq, fillSegments_eq, Nat.min_comm a b, Nat.max_comm a b]

/-- What `digitsMapped` selects matters below `DIGITS` only. -/
theorem digitsMapped_congr {s : State} {p q : Nat → Bool} (f : Byte → Byte) (h : ∀ i, i < s.cfg.digits → p i = q i) :
    digitsMapped s p f = digitsMapped s q f := by
  apply List.ext_getElem?
  intro j
  simp only [digitsMapped_getElem?]
  by_cases hj : j < s.cfg.digits
  · rw [h j hj]
  · simp only [hj, false_and]

/-- The fill over the whole range writes every digit (R147, R148). -/
theorem fillSegments_all (mask : Byte) (s : State) :
    fillSegments mask 0 (s.cfg.digits - 1) s =
      { s with
        buf := digitsMapped s (fun _ => true) (withSegments mask)
        cursor := BitVec.ofNat 3 (s.cfg.digits - 1) } := by
  have hbuf : digitsMapped s (fun i => decide (0 ≤ i) && decide (i ≤ s.cfg.digits - 1)) (withSegments mask) =
      digitsMapped s (fun _ => true) (withSegments mask) := by
    refine digitsMapped_congr _ fun i hi => ?_
    rw [decide_eq_true (Nat.zero_le i), decide_eq_true (show i ≤ s.cfg.digits - 1 by omega)]
    rfl
  simp only [fillSegments_eq, Nat.zero_min, Nat.zero_max, Nat.min_self, Nat.zero_le, if_true, ← hbuf]

/-- Settles O13, by the two cases of `fillSegments_eq`. -/
theorem fillWritesTheClampedRange : Obligations.FillWritesTheClampedRange := by
  intro s mask start stop operand lo hi
  have hfill : exec (.fill mask start stop) s =
      .next (respond .success 0 (fillSegments mask start.toNat stop.toNat s)) := rfl
  rw [fillSegments_eq] at hfill
  refine ⟨by simp [decode, decodeRequest], fun hle => ?_, fun hlt => ?_, fun hvalid => ?_⟩
  · rw [hfill, if_pos hle]
    rfl
  · rw [hfill, if_neg (Nat.not_le.mpr hlt)]
  · exact toNat_cursor_ofNat hvalid (by omega)

/-- Settles O14, since exchanged bounds name one range (`fillSegments_comm`). -/
theorem fillBoundsMayBeSwapped : Obligations.FillBoundsMayBeSwapped := by
  intro s mask a b
  simp only [exec, execFill, fillSegments_comm mask a.toNat b.toNat]

/-- Settles O15: both are the fill over the whole range (`fillSegments_all`), with the masks 0 and 0x7F. -/
theorem clearAndFillallWriteEveryDigit : Obligations.ClearAndFillallWriteEveryDigit := by
  intro s a b c operand hvalid
  have hcursor : (BitVec.ofNat 3 (s.cfg.digits - 1)).toNat = s.cfg.digits - 1 := toNat_cursor_ofNat hvalid (by omega)
  have hclear : withSegments 0x00#8 = (· &&& 0x80) := by
    funext x
    exact BitVec.or_zero
  refine ⟨by simp [decode, decodeRequest], by simp [decode, decodeRequest], ⟨_, ?_, hcursor⟩, ⟨_, ?_, hcursor⟩⟩
  · simp only [exec, execClear, fillSegments_all, hclear]
  · simp only [exec, execFillall, fillSegments_all]
    rfl

/-! Segments and the radix bit of one digit (R149). -/

/-- A digit with its radix bit set after its segments are written. -/
theorem radixSet_withSegments (mask b : Byte) : radixSet (withSegments mask b) = (mask &&& 0x7F#8) ||| 0x80#8 := by
  have hradix : ∀ x : Byte, (x &&& 0x80#8) ||| 0x80#8 = 0x80#8 := by decide
  calc radixSet (withSegments mask b) = (mask &&& 0x7F#8) ||| ((b &&& 0x80#8) ||| 0x80#8) := by
        rw [← BitVec.or_assoc, BitVec.or_comm (mask &&& 0x7F#8)]
        rfl
    _ = (mask &&& 0x7F#8) ||| 0x80#8 := by rw [hradix]

/-- The segments written after the radix bit is set make the same digit. -/
theorem withSegments_radixSet (mask b : Byte) : withSegments mask (radixSet b) = radixSet (withSegments mask b) := by
  have hradix : ∀ x : Byte, radixSet x &&& 0x80#8 = 0x80#8 := by decide
  rw [radixSet_withSegments, withSegments, hradix, BitVec.or_comm]

/-- Settles O17. Two updates of one digit are one update with the composite, and the two composites are equal. -/
theorem segmentAndRadixUpdatesCommute : Obligations.SegmentAndRadixUpdatesCommute := by
  intro s t u t' u' i m hi hwf ht hu ht' hu'
  obtain rfl := Host.Outcome.next.inj ht
  obtain rfl := Host.Outcome.next.inj hu
  obtain rfl := Host.Outcome.next.inj ht'
  obtain rfl := Host.Outcome.next.inj hu'
  have hcomm : withSegments m ∘ radixSet = radixSet ∘ withSegments m := funext (withSegments_radixSet m)
  have hlen : i.toNat < s.buf.length := hwf.symm ▸ hi
  simp only [respond_buf, setSegments, updateDigit_buf, respond_cfg, updateDigit_cfg, inBounds, hi, if_true,
    Memory.update, List.modify_modify_eq, hcomm, and_true]
  rw [List.getElem?_modify_eq, List.getElem?_eq_getElem hlen]
  exact congrArg some (radixSet_withSegments m _)

/-! The cursor requests. -/

/-- Settles O18, by the two cases of `placeCursor`; an index below `DIGITS` fits the register (`toNat_cursor_ofNat`). -/
theorem cursorRequests : Obligations.CursorRequests := by
  intro s index a b c operand hvalid
  refine ⟨by simp [decode, decodeRequest], by simp [decode, decodeRequest], ⟨_, rfl, localData_getcur s⟩,
    fun hlt => ⟨BitVec.ofNat 3 index.toNat, ?_, toNat_cursor_ofNat hvalid (Nat.le_of_lt hlt)⟩, fun hge => ?_⟩
  · simp only [exec, execSetcur, placeCursor, if_pos hlt, setCursor]
  · simp only [exec, execSetcur, placeCursor, if_neg (Nat.not_lt.mpr hge)]

/-! Glyph writing: one equation per case of `write(byte)` (R152 to R157). -/

/-- What `PUTC` answers, by what the glyph writing does. -/
theorem exec_putc {s t : State} {code : Byte} {count : Nat} (h : writeChar code s = (t, count)) :
    exec (.putc code) s = .next (respond .success (BitVec.ofNat 8 count) t) := by
  simp only [exec, execPutc, h]

/-- A full buffer takes nothing (R153). -/
theorem writeChar_of_full {s : State} (code : Byte) (hfull : s.cfg.digits ≤ s.cursor.toNat) :
    writeChar code s = (s, 0) := if_pos hfull

/-- A character that the font finds is written at `CURSOR` (R154). -/
theorem writeChar_of_finds {s : State} {code mask : Byte} (hroom : s.cursor.toNat < s.cfg.digits)
    (hfinds : FontFinds s.cfg.font code mask) : writeChar code s = (writeGlyph mask s, 1) := by
  simp only [writeChar, if_neg (Nat.not_le.mpr hroom), (lookup_eq_some_iff _ _ _).mpr hfinds]

/-- A character that the font lacks is punctuation or is dropped (R155, R156). -/
theorem writeChar_of_lacks {s : State} {code : Byte} (hroom : s.cursor.toNat < s.cfg.digits)
    (hlacks : FontLacks s.cfg.font code) : writeChar code s = writeUnresolved code s := by
  simp only [writeChar, if_neg (Nat.not_le.mpr hroom), (lookup_eq_none_iff _ _).mpr hlacks]

theorem isPunctuation_iff (code : Byte) : isPunctuation code = true ↔ code = 0x2E ∨ code = 0x2C ∨ code = 0x3A := by
  simp [isPunctuation, or_assoc]

/-- Punctuation behind a digit turns on that digit's radix bit (R155). -/
theorem writeUnresolved_of_punctuation {s : State} {code : Byte} (hcode : code = 0x2E ∨ code = 0x2C ∨ code = 0x3A)
    (hpos : 0 < s.cursor.toNat) :
    writeUnresolved code s = (updateDigit (s.cursor.toNat - 1) radixSet s, 1) :=
  if_pos ⟨(isPunctuation_iff code).mpr hcode, hpos⟩

/-- Any other character, and punctuation at `CURSOR` 0, is dropped (R156, R157). -/
theorem writeUnresolved_of_dropped {s : State} {code : Byte}
    (hdropped : ¬ (code = 0x2E ∨ code = 0x2C ∨ code = 0x3A) ∨ s.cursor.toNat = 0) :
    writeUnresolved code s = (s, 0) := by
  refine if_neg ?_
  rw [isPunctuation_iff]
  rintro ⟨hcode, hpos⟩
  obtain hnot | hzero := hdropped
  · exact hnot hcode
  · omega

/-- The mask of a glyph has bit 7 clear already (R132), so the segment write takes it whole. -/
theorem withSegments_of_finds {font : Memory} {code mask : Byte} (hfinds : FontFinds font code mask) :
    withSegments mask = fun x => (x &&& 0x80) ||| mask := by
  obtain ⟨_, raw, _, _, _, _, rfl⟩ := hfinds
  funext x
  rw [withSegments, BitVec.and_assoc, BitVec.and_self]
  rfl

/-- A glyph is one digit and one step of `CURSOR` (R154). -/
theorem writeGlyph_eq (mask : Byte) (s : State) :
    writeGlyph mask s =
      { s with
        buf := digitsMapped s (· = s.cursor.toNat) (withSegments mask)
        cursor := BitVec.ofNat 3 (s.cursor.toNat + 1) } := by
  rw [writeGlyph, setSegments, updateDigit_eq]
  rfl

/-- Settles O19, by the case equations of `writeChar`. -/
theorem putcWritesGlyphOrRadix : Obligations.PutcWritesGlyphOrRadix := by
  intro s code b c operand hvalid punctuation
  refine ⟨by simp [decode, decodeRequest], fun hfull => exec_putc (writeChar_of_full code hfull), ?_, ?_, ?_⟩
  · intro mask hroom hfinds
    refine ⟨BitVec.ofNat 3 (s.cursor.toNat + 1), toNat_cursor_ofNat hvalid hroom, ?_⟩
    rw [exec_putc (writeChar_of_finds hroom hfinds), writeGlyph_eq, withSegments_of_finds hfinds]
    rfl
  · intro hroom hlacks hcode hpos
    rw [exec_putc ((writeChar_of_lacks hroom hlacks).trans (writeUnresolved_of_punctuation hcode hpos))]
    exact next_respond_updateDigit _ radixSet 1 s
  · intro hroom hlacks hdropped
    exact exec_putc ((writeChar_of_lacks hroom hlacks).trans (writeUnresolved_of_dropped hdropped))

/-! `PUTS` (R158). -/

/-- `PUTS` of a string of its length writes that string. -/
theorem exec_puts {n : Byte} {str : Memory} (s : State) (hlen : n.toNat = str.length) :
    exec (.puts n str) s = .next (respond .success (localData s (.puts n str)) (writeString str s).1) := by
  simp only [exec, execPuts, localData, hlen, Nat.lt_irrefl, if_false, List.take_length]

/-- The count that `PUTS` of a string of its length returns. -/
theorem localData_puts_of_length {n : Byte} {str : Memory} (s : State) (hlen : n.toNat = str.length) :
    (localData s (.puts n str)).toNat = (writeString str s).2 := by
  rw [localData_puts, hlen, List.take_length]

/-- Glyph writing does not read what a response changes. -/
theorem writeString_respond (str : Memory) (r : TransmissionResult) (data : Byte) (s : State) :
    writeString str (respond r data s) =
      ({ respond r data s with buf := (writeString str s).1.buf, cursor := (writeString str s).1.cursor },
        (writeString str s).2) :=
  writeString_reads str s (respond r data s) rfl

/-- Settles O20. The string writing recurses as the statement says, and a response in between does not matter to it
(`writeString_respond`). -/
theorem putsIsRepeatedPutc : Obligations.PutsIsRepeatedPutc := by
  refine ⟨fun n b c str => by simp [decode, decodeRequest], fun s => exec_puts s rfl, ?_⟩
  intro s n code rest hn
  have hrest : (n - 1).toNat = rest.length := by bv_omega
  have hfirst : exec (.putc code) s = .next (respond .success (localData s (.putc code)) (writeChar code s).1) := rfl
  have htotal : (localData s (.puts n (code :: rest))).toNat = (writeString (code :: rest) s).2 :=
    localData_puts_of_length s hn
  refine ⟨_, _, localData s (.puts n (code :: rest)), hfirst, exec_puts _ hrest, ?_, ?_, ?_⟩
  · rw [exec_puts s hn, writeString_frame, writeString_respond]
    rfl
  · rw [htotal, lastData_respond, lastData_respond, localData_putc, localData_puts_of_length _ hrest,
      writeString_respond]
    rfl
  · rw [htotal, hn]
    exact writeString_count (code :: rest) s

/-! Local requests do not read `CTRL` (R159). -/

theorem fillSegments_setCtrl (ctrl : Ctrl) (mask : Byte) (start stop : Nat) (s : State) :
    fillSegments mask start stop (setCtrl ctrl s) = setCtrl ctrl (fillSegments mask start stop s) := by
  rw [fillSegments_eq, fillSegments_eq, apply_ite (setCtrl ctrl)]
  rfl

theorem placeCursor_setCtrl (ctrl : Ctrl) (index : Nat) (s : State) :
    placeCursor index (setCtrl ctrl s) = setCtrl ctrl (placeCursor index s) :=
  (apply_ite (setCtrl ctrl) (inBounds index s) (setCursor index s) s).symm

theorem writeChar_setCtrl (ctrl : Ctrl) (code : Byte) (s : State) :
    writeChar code (setCtrl ctrl s) = (setCtrl ctrl (writeChar code s).1, (writeChar code s).2) := by
  rw [writeChar_frame code s]
  exact writeChar_reads code s (setCtrl ctrl s) rfl

theorem writeString_setCtrl (ctrl : Ctrl) (str : Memory) (s : State) :
    writeString str (setCtrl ctrl s) = (setCtrl ctrl (writeString str s).1, (writeString str s).2) := by
  rw [writeString_frame str s]
  exact writeString_reads str s (setCtrl ctrl s) rfl

/-- Responding leaves `CTRL` as it is. -/
theorem next_respond_setCtrl {ctrl : Ctrl} {s u : State} (data : Byte) (h : u = setCtrl ctrl s) :
    Host.Outcome.next (φ := Fault) (ρ := Refusal) (respond .success data u) =
      .next (setCtrl ctrl (respond .success data s)) := by
  rw [h]
  rfl

/-- A local request answers the same under any `CTRL`, and leaves that `CTRL` as it is. -/
theorem exec_local_setCtrl {i : Instr} {s t : State} (ctrl : Ctrl) (hi : isLocalRequest i = true)
    (h : exec i s = .next t) : exec i (setCtrl ctrl s) = .next (setCtrl ctrl t) := by
  cases i with
  | segset | radixon | radixoff | radixtgl | getcur | lookup =>
    obtain rfl := Host.Outcome.next.inj h
    rfl
  | fill | clear | fillall =>
    obtain rfl := Host.Outcome.next.inj h
    exact next_respond_setCtrl 0 (fillSegments_setCtrl ctrl _ _ _ s)
  | setcur index =>
    obtain rfl := Host.Outcome.next.inj h
    exact next_respond_setCtrl 0 (placeCursor_setCtrl ctrl _ s)
  | putc code =>
    obtain rfl := Host.Outcome.next.inj h
    exact exec_putc (writeChar_setCtrl ctrl code s)
  | puts n str =>
    simp only [exec, execPuts] at h ⊢
    split at h
    · exact absurd h (by simp)
    · rename_i hlen
      obtain rfl := Host.Outcome.next.inj h
      rw [if_neg hlen, writeString_setCtrl]
      rfl
  | _ => cases hi

/-- Settles O21. A local request writes `BUF` and `CURSOR` and responds (`exec_local`), and does not read `CTRL`. -/
theorem localRequestsLeaveBusAndStatusAlone : Obligations.LocalRequestsLeaveBusAndStatusAlone := by
  intro i s t hi h
  refine ⟨?_, fun ctrl => exec_local_setCtrl ctrl hi h⟩
  obtain ⟨buf, cursor, rfl⟩ := exec_local hi h
  rfl

end Sys2Proof.Machine

namespace Sys2Proof.Machine

/-! Frames (42_protocol.md R180 to R193): the level changes on DIO, and the result, of a transcript. -/

/-- Inside the bytes of a frame DIO changes its level only while CLK is low, and Stop changes it once with CLK high, whatever
the levels before (R185). -/
theorem dataChangesWhileHigh_bytesEvents_stop (clk dio : Option Bool) (sent : List (Byte × Answer)) :
    dataChangesWhileHigh clk dio (bytesEvents sent ++ [.clk false, .dio false, .clk true, .dio true]) = 1 := by
  induction sent generalizing clk dio with
  | nil => simp [dataChangesWhileHigh]
  | cons x rest ih => simp [bytesEvents_cons, byteEvents, ackEvents, dataChangesWhileHigh, ih]

/-- Start and Stop each change the level on DIO once with CLK high (R180, R183). -/
theorem dataChangesWhileHigh_frameEvents (sent : List (Byte × Answer)) :
    dataChangesWhileHigh (some true) (some true) (frameEvents sent) = 2 := by
  rw [frameEvents, List.append_assoc]
  simp [dataChangesWhileHigh, dataChangesWhileHigh_bytesEvents_stop]

/-- Every frame's events end with those of Stop (R183). -/
theorem stop_suffix_frameEvents (sent : List (Byte × Answer)) :
    [.clk false, .dio false, .clk true, .dio true] <:+ frameEvents sent := List.suffix_append _ _

/-- A frame draws one answer for each byte it carries (R184). -/
theorem frame_draws (cmd : Byte) (data : List Byte) (s : State) :
    (frame cmd data s).draws = s.draws + (transcript (answerAt s) (cmd :: data)).length := by
  rw [frame_eq]

/-- Beside its effect on the bus a frame leaves its result in `fr`, and nothing else changes (R184). -/
theorem frame_eq_busEffect (cmd : Byte) (data : List Byte) (s : State) :
    frame cmd data s =
      { busEffect s (frame cmd data s) cmd (transcript (answerAt s) (cmd :: data)).length with
        fr := (frame cmd data s).fr } := by
  rw [frame_eq]
  rfl

/-- A transcript times out iff one of the answers it takes is `nak` (R191). -/
theorem resultOf_transcript_eq_timeout_iff (ans : Nat → Answer) (bytes : List Byte) :
    resultOf (transcript ans bytes) = .acknowledgeTimeoutError ↔
      ∃ k, k < (transcript ans bytes).length ∧ ans k = .nak := by
  induction bytes generalizing ans with
  | nil => simp [transcript]
  | cons b rest ih =>
    cases h : ans 0 with
    | ack =>
      simp only [transcript, h, resultOf_ack, List.length_cons, Nat.exists_lt_succ_left, ih, reduceCtorEq, false_or]
    | nak =>
      simp only [transcript, h, resultOf_nak, List.length_cons, Nat.exists_lt_succ_left, true_or]

/-- A transcript has one of two results: the pins are no business of a frame. -/
theorem resultOf_eq_success_or_timeout (sent : List (Byte × Answer)) :
    resultOf sent = .success ∨ resultOf sent = .acknowledgeTimeoutError := by
  unfold resultOf
  split
  · exact .inl rfl
  · exact .inr rfl

/-- Settles O24. The events of a frame are `frameEvents` of its transcript; the events of ByteOut stand there by the byte. -/
theorem frameHasItsEventCount : Obligations.FrameHasItsEventCount := by
  intro s cmd data
  let sent := transcript (answerAt s) (cmd :: data)
  have hpos : 1 ≤ sent.length := transcript_length_pos _ cmd data
  have hle : sent.length ≤ data.length + 1 := transcript_length_le _ (cmd :: data)
  refine ⟨frameEvents sent, sent.map fun x => (byteEvents x.1, x.2), frame_sendsFrames cmd data s, ?_, ?_, ?_, ?_, ?_, ?_,
    dataChangesWhileHigh_frameEvents sent⟩
  · rw [List.length_map, frame_draws]
  · rwa [List.length_map]
  · rwa [List.length_map, Nat.add_comm 1]
  · intro x hx
    obtain ⟨y, -, rfl⟩ := List.mem_map.mp hx
    exact byteEvents_length y.1
  · rw [List.flatMap_map]
    rfl
  · rw [List.length_map, frameEvents_length]

/-- Settles O25, by induction over the bytes (`resultOf_transcript_eq_timeout_iff`): the answers a frame draws are those its
transcript takes. -/
theorem frameTimesOutIffSomeNak : Obligations.FrameTimesOutIffSomeNak := by
  intro s cmd data
  simp only [frameResult_frame, frame_draws, Nat.add_lt_add_iff_left]
  exact ⟨resultOf_transcript_eq_timeout_iff _ _, resultOf_eq_success_or_timeout _⟩

/-- Settles O26, by what a frame changes (`frame_eq_busEffect`) and the events it ends with. -/
theorem framesAlwaysClose : Obligations.FramesAlwaysClose := by
  intro s cmd data t
  have htrace : t.trace = s.trace ++ frameEvents (transcript (answerAt s) (cmd :: data)) := frame_sendsFrames cmd data s
  have hstop : [.clk false, .dio false, .clk true, .dio true] <:+ t.trace := by
    rw [htrace]
    exact (stop_suffix_frameEvents _).trans (List.suffix_append _ _)
  have heffect := frame_eq_busEffect cmd data s
  exact ⟨hstop, congrArg State.fsm heffect, ⟨congrArg State.clk heffect, congrArg State.dio heffect⟩,
    congrArg State.lastCmd heffect, _, heffect⟩

/-! The send requests (R188 to R190): the gate, and one frame with its result. -/

/-- A request gated by `CTRL` records `NotReady` before `INIT` (R264). -/
theorem requireReady_of_uninitialized {op : Byte} {s : State} (body : Host.Outcome State Fault Refusal)
    (hc : s.ctrl = .uninitialized) : requireReady op s body = .next (raise (.notReady op) s) := by
  simp only [requireReady, hc]

/-- A send request puts its bytes on the wire in one frame, up to the first `nak`. -/
theorem sendFrame_sendsFrames (cmd : Byte) (data : List Byte) (s : State) :
    SendsFrames s (sendFrame cmd data s) [transcript (answerAt s) (cmd :: data)] :=
  sendsFrames_one (frame_sendsFrames cmd data s)

/-- Beside its frame's effect a send request returns the frame's result and keeps it in `LASTRESULT` (R27, R100). -/
theorem sendFrame_eq_respond_busEffect (cmd : Byte) (data : List Byte) (s : State) :
    sendFrame cmd data s =
      respond (resultOf (transcript (answerAt s) (cmd :: data))) 0
        { busEffect s (sendFrame cmd data s) cmd (transcript (answerAt s) (cmd :: data)).length with
          lastResult := some (resultOf (transcript (answerAt s) (cmd :: data))) } := by
  rw [sendFrame_eq]
  rfl

/-- `SENDBUF` in a ready engine, with its operands in range, sends the bytes gathered (R190). -/
theorem exec_sendbuf_of_gather {s : State} {cmd count : Byte} {reorder : Option Memory} {data : List Byte}
    (hr : s.ctrl = .ready) (hcount : count.toNat ≤ s.cfg.digits)
    (hg : gather s reorder count.toNat = .bytes data) :
    exec (.sendbuf cmd count reorder) s = .next (sendFrame cmd data s) := by
  simp only [exec, execSendbuf, requireReady_of_ready hr, if_neg (Nat.not_lt.mpr hcount), hg, withGathered]

/-- Settles O28: both requests are gated, and past the gate each is `sendFrame` of its operand bytes. -/
theorem sendcmdRequestsSendOneFrame : Obligations.SendcmdRequestsSendOneFrame := by
  intro s cmd data b c operand
  refine ⟨by simp [decode, decodeRequest], by simp [decode, decodeRequest], fun hc =>
    ⟨requireReady_of_uninitialized _ hc, requireReady_of_uninitialized _ hc⟩, ?_⟩
  rintro hr i bytes (⟨rfl, rfl⟩ | ⟨rfl, rfl⟩) sent
  · exact ⟨sendFrame cmd [] s, requireReady_of_ready hr, sendFrame_sendsFrames cmd [] s,
      sendFrame_eq_respond_busEffect cmd [] s⟩
  · exact ⟨sendFrame cmd [data] s, requireReady_of_ready hr, sendFrame_sendsFrames cmd [data] s,
      sendFrame_eq_respond_busEffect cmd [data] s⟩

/-- Settles O29: with its sources in range the gathering gives the bytes (`gather_bytes`), and `SENDBUF` is `sendFrame` of
them. -/
theorem sendbufSendsBufferBytes : Obligations.SendbufSendsBufferBytes := by
  intro s cmd count c operand reorder
  refine ⟨by simp [decode, decodeRequest, reorderOperand], fun hc => requireReady_of_uninitialized _ hc, ?_⟩
  intro hr hbuf hcount hsources
  obtain ⟨data, hg, hgathered⟩ := gather_bytes s reorder count.toNat hbuf hcount hsources
  exact ⟨sendFrame cmd data s, data, hgathered, exec_sendbuf_of_gather hr hcount hg, sendFrame_sendsFrames cmd data s,
    sendFrame_eq_respond_busEffect cmd data s⟩

end Sys2Proof.Machine

namespace Sys2Proof.Machine

/-! The display controller (43_controller.md R221 to R232). `INIT` and the requests that switch the display send one
display-control byte, which `displayByte` names by the new `POWER`; `COMMIT` sends two frames. -/

/-- The display-control byte that switches to `p` with the brightness `contrast` (R225, R226, R228). -/
def displayByte (p : Power) (contrast : BitVec 3) : Byte :=
  (if p = .on then 0x88 else 0x80) ||| contrast.setWidth 8

/-- The byte the switching requests build is `displayByte` of the value `POWER` is to take. -/
theorem dispCtrl_eq_displayByte (p : Power) (contrast : BitVec 3) :
    dispCtrl (decide (p = .on)) contrast = displayByte p contrast := by
  cases p <;> rfl

/-- The flag a switching request passes on stands for the `POWER` value it is made from. -/
theorem power_of_decide_on (p : Power) : (if decide (p = .on) then Power.on else Power.off) = p := by
  cases p <;> rfl

/-- A switching request puts its display-control byte on the wire in one frame. -/
theorem powerRequest_sendsFrames (p : Power) (s : State) :
    SendsFrames s (powerRequest (decide (p = .on)) s) [transcript (answerAt s) [displayByte p s.contrast]] := by
  refine sendsFrames_one ?_
  rw [powerRequest_eq, dispCtrl_eq_displayByte]
  rfl

/-- Beside its frame's effect a switching request returns the frame's result, and `POWER` follows a success (R225, R226). -/
theorem powerRequest_eq_respond_busEffect (p : Power) (s : State) :
    let sent := transcript (answerAt s) [displayByte p s.contrast]
    let t := powerRequest (decide (p = .on)) s
    t = respond (resultOf sent) 0 { busEffect s t (displayByte p s.contrast) sent.length with
      power := if resultOf sent = .success then p else s.power, lastResult := some (resultOf sent) } := by
  intro sent t
  unfold t
  rw [powerRequest_eq, dispCtrl_eq_displayByte, power_of_decide_on]
  rfl

/-- `TOGGLE` asks for the value `POWER` does not have (R227). -/
theorem decide_off_of_ne {p power : Power} (h : p ≠ power) : decide (power = .off) = decide (p = .on) := by
  revert h
  cases p <;> cases power <;> decide

/-- Settles O33: all three are gated, and past the gate each is `powerRequest` of the value it asks for. -/
theorem powerRequestsFollowSuccess : Obligations.PowerRequestsFollowSuccess := by
  intro s a b c operand
  refine ⟨by simp [decode, decodeRequest], by simp [decode, decodeRequest], by simp [decode, decodeRequest], fun hc =>
    ⟨requireReady_of_uninitialized _ hc, requireReady_of_uninitialized _ hc, requireReady_of_uninitialized _ hc⟩, ?_⟩
  intro hr i p hi cmd sent r
  have hexec : exec i s = .next (powerRequest (decide (p = .on)) s) := by
    obtain ⟨rfl, rfl⟩ | ⟨rfl, rfl⟩ | ⟨rfl, hp⟩ := hi
    · exact requireReady_of_ready hr
    · exact requireReady_of_ready hr
    · rw [← decide_off_of_ne hp]
      exact requireReady_of_ready hr
  exact ⟨_, hexec, powerRequest_sendsFrames p s, powerRequest_eq_respond_busEffect p s⟩

/-- The clamped level in the three bits of `CONTRAST` (R229). -/
theorem clampLevel_toNat (level : Byte) : (clampLevel level).toNat = min level.toNat 7 := by
  rw [clampLevel, BitVec.toNat_ofNat]
  omega

/-- Settles O34: past the gate `SETCONTRAST` is the request to switch on, in a state that holds the clamped level. -/
theorem setcontrastClampsAndPowersOn : Obligations.SetcontrastClampsAndPowersOn := by
  intro s level b c operand
  refine ⟨by simp [decode, decodeRequest], fun hc => requireReady_of_uninitialized _ hc, fun hr => ?_⟩
  let stored := setContrastReg (clampLevel level) s
  exact ⟨clampLevel level, clampLevel_toNat level, powerRequest true stored, requireReady_of_ready hr,
    powerRequest_sendsFrames .on stored, powerRequest_eq_respond_busEffect .on stored⟩

/-- `INIT` past its pin check emits the set-up events and then its power-on frame (R221, R222). -/
theorem initialise_sendsFrames (s : State) :
    SendsFrames { s with trace := s.trace ++ [.cfg, .dio true, .clk true] } (initialise s)
      [transcript (answerAt s) [displayByte .on s.cfg.contrastDefault]] := by
  refine sendsFrames_one ?_
  rw [initialise_eq]
  rfl

/-- What `INIT` past its pin check does beside its trace: the registers it sets up, and `POWER` and `CTRL` on a success
(R222 to R224). -/
theorem initialise_eq_respond_busEffect (s : State) :
    let sent := transcript (answerAt s) [displayByte .on s.cfg.contrastDefault]
    initialise s =
      respond (resultOf sent) 0
        { busEffect s (initialise s) (displayByte .on s.cfg.contrastDefault) sent.length with
          buf := List.replicate s.cfg.digits 0x00
          cursor := 0
          contrast := s.cfg.contrastDefault
          power := if resultOf sent = .success then .on else s.power
          ctrl := if resultOf sent = .success then .ready else s.ctrl
          lastResult := some (resultOf sent) } := by
  intro sent
  rw [initialise_eq]
  rfl

/-- Settles O31, by the two cases of the pin check. -/
theorem initConfiguresAndPowersOn : Obligations.InitConfiguresAndPowersOn := by
  intro s a b c operand
  refine ⟨by simp [decode, decodeRequest], fun hpins => if_pos hpins, fun hpins => ?_⟩
  exact ⟨initialise s, if_neg hpins, initialise_sendsFrames s, initialise_eq_respond_busEffect s⟩

/-- The two frames of `COMMIT` go out one after the other, the second whatever the first one's result (R230). -/
theorem commitFrames_sendsFrames (data : List Byte) (s : State) :
    let sent1 := transcript (answerAt s) [0x40#8]
    SendsFrames s (commitFrames data s)
      [sent1, transcript (fun k => answerAt s (k + sent1.length)) (0xC0#8 :: data)] := by
  intro sent1
  have hfirst : SendsFrames s (afterFrame 0x40#8 sent1 s) [sent1] := sendsFrames_one rfl
  refine hfirst.append (sendsFrames_one ?_)
  rw [commitFrames_eq]
  rfl

/-- Beside the effect of its frames `COMMIT` returns the first failure (R230), and `BUF` stays as it is (R231). -/
theorem commitFrames_eq_respond_busEffect (data : List Byte) (s : State) :
    let sent1 := transcript (answerAt s) [0x40#8]
    let sent2 := transcript (fun k => answerAt s (k + sent1.length)) (0xC0#8 :: data)
    commitFrames data s =
      respond (firstFail (resultOf sent1) (resultOf sent2)) 0
        { busEffect s (commitFrames data s) 0xC0#8 (sent1.length + sent2.length) with
          lastResult := some (firstFail (resultOf sent1) (resultOf sent2)) } := by
  intro sent1 sent2
  rw [commitFrames_eq]
  simp only [afterFrame, busEffect, respond_trace, List.drop_drop, Nat.add_assoc, sent1, sent2]

/-- `COMMIT` in a ready engine, with its operand in range, sends the bytes gathered (R230). -/
theorem exec_commit_of_gather {s : State} {reorder : Option Memory} {data : List Byte} (hr : s.ctrl = .ready)
    (hg : gather s reorder s.cfg.digits = .bytes data) :
    exec (.commit reorder) s = .next (commitFrames data s) := by
  simp only [exec, execCommit, requireReady_of_ready hr, hg, withGathered]

/-- Settles O35: with its sources in range the gathering gives the bytes (`gather_bytes`), and `COMMIT` is `commitFrames` of
them. -/
theorem commitSendsTwoFrames : Obligations.CommitSendsTwoFrames := by
  intro s a b c operand reorder
  refine ⟨by simp [decode, decodeRequest, reorderOperand], fun hc => requireReady_of_uninitialized _ hc, ?_⟩
  intro hr hbuf hsources
  obtain ⟨data, hg, hgathered⟩ := gather_bytes s reorder s.cfg.digits hbuf (Nat.le_refl _) hsources
  exact ⟨commitFrames data s, data, hgathered, exec_commit_of_gather hr hg, commitFrames_sendsFrames data s,
    commitFrames_eq_respond_busEffect data s⟩

/-- When every answer a frame may need is `ack`, the frame carries all its bytes (R184). -/
theorem transcript_of_ack {ans : Nat → Answer} {bytes : List Byte} (h : ∀ k, k < bytes.length → ans k = .ack) :
    transcript ans bytes = bytes.map (·, .ack) := by
  induction bytes generalizing ans with
  | nil => rfl
  | cons b rest ih =>
    have hrest : transcript (fun k => ans (k + 1)) rest = rest.map (·, .ack) :=
      ih fun k hk => h (k + 1) (Nat.succ_lt_succ hk)
    simp only [transcript, h 0 (Nat.succ_pos _), hrest, List.map_cons]

/-- Without a reorder table the whole buffer gathered is the buffer (R190). -/
theorem eq_buf_of_isGathered {s : State} {data : List Byte} (hbuf : Memory.wf s.cfg.digits s.buf)
    (h : IsGathered s none s.cfg.digits data) : data = s.buf := by
  obtain ⟨hlen, hbytes⟩ := h
  refine List.ext_getElem? fun i => ?_
  by_cases hi : i < s.cfg.digits
  · obtain ⟨p, b, hp, hb, hd⟩ := hbytes i hi
    obtain rfl : i = p := Option.some.inj hp
    rw [hd, hb]
  · rw [List.getElem?_eq_none (by omega), List.getElem?_eq_none (by omega)]

/-- Settles O36, from `commitSendsTwoFrames`: the bytes gathered are the buffer, and with every answer `ack` the two
transcripts carry all of theirs. -/
theorem commitPutsTheBufferOnTheWire : Obligations.CommitPutsTheBufferOnTheWire := by
  intro s b0 b1 b2 b3 hr hdigits hbuf hack
  have hwf : Memory.wf s.cfg.digits s.buf := by rw [Memory.wf, hdigits, hbuf]; rfl
  obtain ⟨-, -, hcommit⟩ := commitSendsTwoFrames s 0 0 0 [] none
  obtain ⟨t, data, hgathered, hexec, hsends, ht⟩ := hcommit hr hwf fun i hi => ⟨i, rfl, hi⟩
  obtain rfl : data = [b0, b1, b2, b3] := (eq_buf_of_isGathered hwf hgathered).trans hbuf
  have hsent1 : transcript (answerAt s) [0x40] = [(0x40, .ack)] :=
    transcript_of_ack fun k hk => hack k (Nat.lt_of_lt_of_le hk (by decide))
  have hsent2 : transcript (fun k => answerAt s (k + 1)) [0xC0, b0, b1, b2, b3] =
      [(0xC0, .ack), (b0, .ack), (b1, .ack), (b2, .ack), (b3, .ack)] :=
    transcript_of_ack fun k hk => hack (k + 1) (Nat.succ_lt_succ hk)
  simp only [hsent1, List.length_singleton, hsent2] at hsends ht
  have hbufKept : t.buf = s.buf := (congrArg State.buf ht :)
  obtain ⟨es, htrace, hlen, hread⟩ := hsends
  refine ⟨t, hexec, congrArg State.lastResult ht, hbufKept, ?_, es, htrace, hlen, hread⟩
  rw [htrace, List.length_append, hlen]
  rfl

end Sys2Proof.Machine

namespace Sys2Proof.Machine

/-! The model faults (60_exceptions.md R262 to R267): which instruction records which fault, and that the engine then stops. -/

/-- A bus request before `INIT` records `NotReady` with its own OP (R264). -/
theorem exec_busRequest_of_uninitialized {i : Instr} {op : Byte} {s : State} (hop : busRequestOp i = some op)
    (hc : s.ctrl = .uninitialized) : exec i s = .next (raise (.notReady op) s) := by
  cases i with
  | sendcmd | sendcmdb | sendbuf | commit | pwron | pwroff | toggle | setcontrast =>
    cases hop
    exact requireReady_of_uninitialized _ hc
  | _ => cases hop

/-- An instruction leaves `FAULT` as it is, or does nothing but record `NotReady` (R264) or an operand out of range (R265). -/
theorem exec_fault_cases {i : Instr} {s t : State} (h : exec i s = .next t) :
    t.fault = s.fault ∨
      (∃ op, (busRequestOp i = some op ∨ isBusCommand i = true) ∧ s.ctrl = .uninitialized ∧
        t = raise (.notReady op) s) ∨
      ∃ f, ((∃ c, f = .badCount c) ∨ ∃ k, f = .badReorder k) ∧ t = raise f s := by
  cases exec_effect h with
  | notReady op hi hc => exact .inr (.inl ⟨op, hi, hc, rfl⟩)
  | badOperand f hi hf => exact .inr (.inr ⟨f, hf, rfl⟩)
  | localRequest | pinsEqual => exact .inl rfl
  | initialised =>
    rw [initialise_eq]
    exact .inl rfl
  | sent =>
    rw [sendFrame_eq]
    exact .inl rfl
  | switched | contrastSet =>
    rw [powerRequest_eq]
    exact .inl rfl
  | committed =>
    rw [commitFrames_eq]
    exact .inl rfl
  | busCommand =>
    rw [frame_eq]
    exact .inl rfl

/-- Settles O27: the gate of the eight requests, and among the ways to record a fault (`exec_fault_cases`) the one that
records `NotReady`. -/
theorem busRequestsNeedReady : Obligations.BusRequestsNeedReady := by
  refine ⟨fun i op s => exec_busRequest_of_uninitialized, ?_⟩
  intro i op s t h hs ht hbus
  obtain hkept | ⟨op', hi, hc, rfl⟩ | ⟨f, hf, rfl⟩ := exec_fault_cases h
  · exact absurd (hkept.trans hs) (by simp [ht])
  · cases ht
    exact ⟨hi.resolve_right (by simp [hbus]), hc⟩
  · cases ht
    obtain ⟨c, hf⟩ | ⟨k, hf⟩ := hf <;> cases hf

/-- `SENDBUF` of more bytes than the buffer has (R265). -/
theorem exec_sendbuf_of_badCount {s : State} {cmd count : Byte} {reorder : Option Memory} (hr : s.ctrl = .ready)
    (hcount : s.cfg.digits < count.toNat) :
    exec (.sendbuf cmd count reorder) s = .next (raise (.badCount count) s) := by
  simp only [exec, execSendbuf, requireReady_of_ready hr, if_pos hcount]

/-- `SENDBUF` through a table with an entry out of range among those it reads (R265). -/
theorem exec_sendbuf_of_badReorder {s : State} {cmd count : Byte} {reorder : Option Memory} {i : Nat}
    (hr : s.ctrl = .ready) (hcount : count.toNat ≤ s.cfg.digits)
    (hg : gather s reorder count.toNat = .badReorder i) :
    exec (.sendbuf cmd count reorder) s = .next (raise (.badReorder i) s) := by
  simp only [exec, execSendbuf, requireReady_of_ready hr, if_neg (Nat.not_lt.mpr hcount), hg, withGathered]

/-- `COMMIT` through a table with an entry out of range (R265). -/
theorem exec_commit_of_badReorder {s : State} {reorder : Option Memory} {i : Nat} (hr : s.ctrl = .ready)
    (hg : gather s reorder s.cfg.digits = .badReorder i) :
    exec (.commit reorder) s = .next (raise (.badReorder i) s) := by
  simp only [exec, execCommit, requireReady_of_ready hr, hg, withGathered]

/-- Settles O30: the count is checked before the table, and the gathering stops at the least entry out of range
(`gather_badReorder`). -/
theorem outOfRangeOperandsRaise : Obligations.OutOfRangeOperandsRaise := by
  refine ⟨fun s cmd count reorder => exec_sendbuf_of_badCount, ?_⟩
  intro s cmd count entry table i hr hentry hbad hbefore
  exact ⟨fun hi hcount => exec_sendbuf_of_badReorder hr hcount
      (gather_badReorder s table count.toNat i entry hi hentry hbad hbefore),
    fun hi => exec_commit_of_badReorder hr (gather_badReorder s table s.cfg.digits i entry hi hentry hbad hbefore)⟩

/-- A faulted engine takes no request (R262). -/
theorem step_of_fault {s : State} {f : EngineFault} (hf : s.fault = some f) : step s = .fault (.halted f) := by
  simp only [step, hf]

/-- A step that answers a state with a fault recorded did nothing but record it (R262): the step itself raised
`IllegalRequest`, or the instruction it ran is one of those of `exec_fault_cases`. -/
theorem eq_raise_of_step_fault {s t : State} {f : EngineFault} (h : step s = .next t) (ht : t.fault = some f) :
    t = raise f s := by
  obtain ⟨hs, hstep⟩ := step_cases h
  suffices hraise : t.fault = s.fault ∨ ∃ f', t = raise f' s by
    obtain hkept | ⟨f', rfl⟩ := hraise
    · exact absurd (hkept.trans hs) (by simp [ht])
    · cases ht
      rfl
  obtain ⟨-, rfl⟩ | ⟨_, _, _, op, -, rfl⟩ | ⟨_, _, i, -, -, -, hexec⟩ := hstep
  · exact .inl rfl
  · exact .inr ⟨_, rfl⟩
  · obtain hkept | ⟨op, -, -, rfl⟩ | ⟨f', -, rfl⟩ := exec_fault_cases hexec
    · exact .inl hkept
    · exact .inr ⟨_, rfl⟩
    · exact .inr ⟨_, rfl⟩

/-- Settles O45, by what a step that records a fault does (`eq_raise_of_step_fault`) and the check a step begins with. -/
theorem faultsArePrecise : Obligations.FaultsArePrecise :=
  fun _ _ _ h ht => ⟨eq_raise_of_step_fault h ht, step_of_fault ht⟩

/-- Settles O40: construction records `ConfigInvalid` by the range of `DIGITS` alone, and a faulted engine takes no request
whatever is pending. -/
theorem invalidConfigurationTakesNoRequest : Obligations.InvalidConfigurationTakesNoRequest := by
  intro cfg pending
  refine ⟨fun hinvalid => ?_, fun hvalid => if_pos hvalid⟩
  have hfault : (State.construct cfg).fault = some .configInvalid := if_neg hinvalid
  exact ⟨hfault, step_of_fault hfault⟩

end Sys2Proof.Machine

namespace Sys2Proof.Machine

/-! Repeated `INIT`s (70_reset_and_hazards.md R294): the registers a successful one leaves depend on the configuration alone. -/

/-- An `INIT` that ends in `Success` passed its pin check, and its power-on frame was acknowledged (R221, R223, R224). -/
theorem eq_initialise_of_init_success {s t : State} (h : exec .init s = .next t) (hr : t.lastResult = some .success) :
    t = initialise s ∧ resultOf (transcript (answerAt s) [displayByte .on s.cfg.contrastDefault]) = .success := by
  obtain ⟨-, hequal, hdistinct⟩ := initConfiguresAndPowersOn s 0 0 0 []
  by_cases hpins : s.cfg.clkPin = s.cfg.dioPin
  · cases (hequal hpins).symm.trans h
    cases hr
  · have ht : t = initialise s := Host.Outcome.next.inj (h.symm.trans (if_neg hpins))
    rw [ht, initialise_eq_respond_busEffect] at hr
    exact ⟨ht, Option.some.inj hr⟩

/-- A successful `INIT` leaves each of its registers at a value that the configuration gives, and only adds to the trace. -/
theorem registers_of_init_success {s t : State} (h : exec .init s = .next t) (hr : t.lastResult = some .success) :
    t.buf = List.replicate s.cfg.digits 0x00 ∧ t.cursor = 0 ∧ t.contrast = s.cfg.contrastDefault ∧
      t.lastCmd = some (displayByte .on s.cfg.contrastDefault) ∧ t.power = .on ∧ t.ctrl = .ready ∧ s.trace <+: t.trace := by
  obtain ⟨rfl, hsuccess⟩ := eq_initialise_of_init_success h hr
  have heffect := initialise_eq_respond_busEffect s
  obtain ⟨es, htrace, -⟩ := initialise_sendsFrames s
  refine ⟨congrArg State.buf heffect, congrArg State.cursor heffect, congrArg State.contrast heffect,
    congrArg State.lastCmd heffect, (congrArg State.power heffect).trans (if_pos hsuccess),
    (congrArg State.ctrl heffect).trans (if_pos hsuccess), ?_⟩
  rw [htrace, List.append_assoc]
  exact List.prefix_append _ _

/-- Settles O32: both `INIT`s leave the registers that their one configuration gives (`registers_of_init_success`). -/
theorem initIsIdempotent : Obligations.InitIsIdempotent := by
  intro s s' t t' hcfg h h' hr hr'
  obtain ⟨hbuf, hcursor, hcontrast, hlastCmd, hpower, hctrl, htrace⟩ := registers_of_init_success h hr
  obtain ⟨hbuf', hcursor', hcontrast', hlastCmd', hpower', hctrl', -⟩ := registers_of_init_success h' hr'
  rw [← hcfg] at hbuf' hcontrast' hlastCmd'
  have hclear : ∀ b, b ∈ t.buf → b = 0x00 := fun b hb => List.eq_of_mem_replicate (hbuf ▸ hb)
  exact ⟨hbuf.trans hbuf'.symm, hcursor.trans hcursor'.symm, hcontrast.trans hcontrast'.symm,
    hlastCmd.trans hlastCmd'.symm, hpower, hpower', hctrl, hctrl', hclear, hcursor, hcontrast, hlastCmd, htrace⟩

end Sys2Proof.Machine

namespace Sys2Proof

/-! Encodings (30_encoding.md): decoding undoes the encoder, and the bytes that are bus commands. -/

/-- The reorder flag that the encoder writes lets the decoder take back the `REORDER` operand (R90). -/
theorem reorderOperand_of_flagByte (op a b : Byte) (reorder : Option Memory) :
    reorderOperand (packWord op a b (reorderFlagByte reorder)) (reorder.getD []) = reorder := by
  cases reorder <;> simp [reorderOperand, reorderFlagByte]

/-- Settles O1, by the rows of the opcode map: the fields of a packed word are those packed (`opField_packWord` and its
like), and the bus command bytes go by the three families' lemmas. -/
theorem decodeOfEncodeIsIdentity : Obligations.DecodeOfEncodeIsIdentity := by
  intro i
  cases i with
  | sendbuf cmd count reorder =>
    simp [encode, decode, decodeRequest, reorderOperand_of_flagByte]
  | commit reorder =>
    simp [encode, decode, decodeRequest, reorderOperand_of_flagByte]
  | busDataCmd reserved test fixed rw => exact decode_dataCommandByte reserved test fixed rw
  | busDisplayCtrl reserved on contrast => exact decode_displayCommandByte reserved on contrast
  | busAddress reserved addr => exact decode_addressCommandByte reserved addr
  | _ => simp [encode, decode, decodeRequest]

/-- Settles O4: eleven closed evaluations of the decoder. -/
theorem writtenOutWordsDecode : Obligations.WrittenOutWordsDecode :=
  ⟨rfl, rfl, rfl, rfl, rfl, rfl, rfl, rfl, rfl, rfl, rfl⟩

/-- The family number of a byte is its bits 7:6 (R102). -/
theorem busFamily_eq_div (b : Byte) : (b.extractLsb' 6 2).toNat = b.toNat / 64 := by
  have : b.toNat < 256 := b.isLt
  rw [BitVec.extractLsb'_toNat, Nat.shiftRight_eq_div_pow]
  omega

/-- A byte is the command byte of its family with the sub-fields that the decoder reads from it (R103 to R105). -/
theorem commandByte_of_subfields : ∀ b : Byte,
    ((b.extractLsb' 6 2).toNat = 1 →
      dataCommandByte (b.extractLsb' 4 2) (b.getLsbD 3) (b.getLsbD 2) (b.extractLsb' 0 2) = b) ∧
    ((b.extractLsb' 6 2).toNat = 2 →
      displayCommandByte (b.extractLsb' 4 2) (b.getLsbD 3) (b.extractLsb' 0 3) = b) ∧
    ((b.extractLsb' 6 2).toNat = 3 → addressCommandByte (b.extractLsb' 4 2) (b.extractLsb' 0 4) = b) := by
  decide

/-- What the decoder answers for a bus byte: no family below 0x40, and from there an instruction that is encoded as that
byte again. -/
theorem decodeBusCommand_total (b : Byte) :
    (b.toNat < 0x40 ∧ decodeBusCommand b = .error (.noCommandFamily b)) ∨
      (0x40 ≤ b.toNat ∧ ∃ i, decodeBusCommand b = .ok i ∧ encode i = .busCommand b) := by
  have hlt : b.toNat < 256 := b.isLt
  have hfamily := busFamily_eq_div b
  obtain ⟨hdata, hdisplay, haddress⟩ := commandByte_of_subfields b
  unfold decodeBusCommand
  split
  case h_1 h => exact .inr ⟨by omega, _, rfl, congrArg PortItem.busCommand (hdata h)⟩
  case h_2 h => exact .inr ⟨by omega, _, rfl, congrArg PortItem.busCommand (hdisplay h)⟩
  case h_3 h => exact .inr ⟨by omega, _, rfl, congrArg PortItem.busCommand (haddress h)⟩
  case h_4 =>
    refine .inl ⟨?_, rfl⟩
    simp only [imp_false] at *
    omega

/-- Settles O38: the written-out bytes by their sub-fields' finitely many values, the last clause by
`decodeBusCommand_total`. -/
theorem busCommandBytes : Obligations.BusCommandBytes := by
  refine ⟨by decide, by decide, rfl, fun b => ?_⟩
  obtain ⟨hlow, herror⟩ | ⟨hhigh, i, hi⟩ := decodeBusCommand_total b
  · constructor
    · rintro ⟨i, hi, -⟩
      exact absurd (hi.symm.trans herror) (by simp)
    · exact fun h => absurd hlow h
  · exact ⟨fun _ => Nat.not_lt.mpr hhigh, fun _ => ⟨i, hi⟩⟩

end Sys2Proof

namespace Sys2Proof.Machine

/-! The step around `exec` (20_memory.md R71, R75), and what holds right after construction (R39, R40). -/

/-- A step of an engine with no fault, on a port item that is an instruction. -/
theorem step_of_decode {s : State} {item : PortItem} {rest : List PortItem} {i : Instr} (hf : s.fault = none)
    (hp : s.hostPending = item :: rest) (hd : decode item = .ok i) :
    step s = if i.wellFormed s.cfg.digits then exec i s else .refused .operandShape := by
  simp only [step, hf, fetchItem, hp, List.head?_cons, hd]

/-- A step of an engine with no fault and no request waits (R291). -/
theorem step_of_no_request {s : State} (hf : s.fault = none) (hp : s.hostPending = []) : step s = .next s := by
  simp only [step, hf, fetchItem, hp, List.head?_nil, waitForRequest]

/-- Settles O6, by the equation of the step on an instruction. -/
theorem stepRunsTheDecodedInstruction : Obligations.StepRunsTheDecodedInstruction :=
  fun _ _ _ _ hf hp hd hw => (step_of_decode hf hp hd).trans (if_pos hw)

/-- Settles O7, by the equations of the step: faulted, waiting, and on an item that decodes or does not. -/
theorem stepOutsideExecution : Obligations.StepOutsideExecution := by
  refine ⟨fun s f => step_of_fault, fun s => step_of_no_request, ?_, ?_⟩
  · intro s item rest i hf hp hd hw
    rw [step_of_decode hf hp hd, if_neg (by simp [hw])]
  · intro s b rest hf hp hb
    obtain ⟨-, herror⟩ | ⟨hhigh, -⟩ := decodeBusCommand_total b
    · exact step_of_decode_error hf hp herror
    · exact absurd hb (Nat.not_lt.mpr hhigh)

/-- Construction draws one byte of `BUF` for each digit (R39). -/
theorem construct_buf_length (cfg : Config) : (State.construct cfg).buf.length = cfg.digits := by
  simp [State.construct]

/-- Settles O39: every field is the one construction writes. -/
theorem resetValues : Obligations.ResetValues := fun cfg =>
  ⟨rfl, construct_buf_length cfg, rfl, rfl, rfl, rfl, rfl, rfl, rfl, rfl, rfl, fun hvalid => if_pos hvalid⟩

/-- Construction meets the invariants of the engine (R40). -/
theorem construct_inv {cfg : Config} (hvalid : cfg.valid) : (State.construct cfg).Inv where
  config := hvalid
  bufShape := construct_buf_length cfg
  cursorRange := Nat.zero_le _
  quiet := ⟨rfl, rfl, rfl, rfl⟩
  lines := .inr ⟨⟨rfl, rfl⟩, rfl⟩
  oneResponseEach := rfl

/-- Construction meets the invariants of the bus: no line is driven yet, and the trace is empty. -/
theorem construct_busInv (cfg : Config) : (State.construct cfg).BusInv where
  idle := fun h => absurd h.1 (by simp [State.construct])
  untouched := fun _ => rfl
  lastCmd := rfl

/-- Settles O41: `State.reset` is the construction with the default configuration, which is in range. -/
theorem invariantsHoldAtReset : Obligations.InvariantsHoldAtReset :=
  ⟨fun cfg hvalid => ⟨construct_inv hvalid, construct_busInv cfg⟩, construct_inv (by decide), construct_busInv _⟩

end Sys2Proof.Machine

namespace Sys2Proof.Machine

/-! What every step keeps (10_state.md R40): a predicate that each operation of a request keeps is kept by every step. -/

/-- `P` is kept by each operation that requests are made of. A frame starts on a ready engine or on idle-high lines. -/
structure KeptByOperations (P : State → Prop) : Prop where
  raise : ∀ u f, P u → P (raise f u)
  localRequest : ∀ u buf cursor,
    (u.cfg.valid → Memory.wf u.cfg.digits u.buf → u.cursor.toNat ≤ u.cfg.digits →
      Memory.wf u.cfg.digits buf ∧ cursor.toNat ≤ u.cfg.digits) →
    P u → P { u with buf := buf, cursor := cursor }
  initSetup : ∀ u, P u → P (initSetup u)
  frame : ∀ u cmd data (ans : Nat → Answer), u.ctrl = .ready ∨ u.LinesIdleHigh →
    P u → P (afterFrame cmd (transcript ans (cmd :: data)) u)
  registers : ∀ u contrast power lastResult, P u →
    P { u with contrast := contrast, power := power, lastResult := lastResult }
  ctrl : ∀ u c, c = u.ctrl ∨ c = .ready → u.LinesIdleHigh → P u → P { u with ctrl := c }
  respond : ∀ u r data, P u → P (respond r data u)
  finish : ∀ u, P u → P (finishBusCommand u)

/-- A bus-level item leaves its frame's effect without `fr` (R32). -/
theorem finishBusCommand_frame (cmd : Byte) (s : State) :
    finishBusCommand (frame cmd [] s) = finishBusCommand (afterFrame cmd (transcript (answerAt s) [cmd]) s) := by
  rw [frame_eq_afterFrame]
  rfl

/-- Every instruction keeps what its operations keep. -/
theorem exec_keeps {P : State → Prop} (hP : KeptByOperations P) {i : Instr} {s t : State} (h : exec i s = .next t)
    (hs : P s) : P t := by
  cases exec_effect h with
  | notReady | badOperand => exact hP.raise _ _ hs
  | localRequest buf cursor data _ shape => exact hP.respond _ _ _ (hP.localRequest _ _ _ shape hs)
  | pinsEqual => exact hP.respond _ _ _ (hP.registers s s.contrast s.power _ hs)
  | initialised =>
    rw [initialise_eq]
    have hsent := hP.frame _ (dispCtrl true s.cfg.contrastDefault) [] (answerAt s) (.inr ⟨rfl, rfl⟩) (hP.initSetup s hs)
    generalize transcript (answerAt s) [dispCtrl true s.cfg.contrastDefault] = sent at hsent ⊢
    have hctrl := hP.ctrl (afterFrame _ sent (initSetup s)) (if resultOf sent = .success then .ready else s.ctrl)
      (ite_eq_or_eq _ _ _).symm ⟨rfl, rfl⟩ hsent
    exact hP.respond _ _ _ (hP.registers _ s.cfg.contrastDefault _ _ hctrl)
  | sent cmd data op _ hr =>
    rw [sendFrame_eq]
    exact hP.respond _ _ _ (hP.registers _ s.contrast s.power _ (hP.frame s cmd data _ (.inl hr) hs))
  | switched on _ hr =>
    rw [powerRequest_eq]
    exact hP.respond _ _ _ (hP.registers _ s.contrast _ _ (hP.frame s _ [] _ (.inl hr) hs))
  | contrastSet level _ hr =>
    rw [powerRequest_eq]
    have hset := hP.registers s (clampLevel level) s.power s.lastResult hs
    exact hP.respond _ _ _ (hP.registers _ (clampLevel level) _ _ (hP.frame _ _ [] _ (.inl hr) hset))
  | committed reorder data _ hr =>
    rw [commitFrames_eq]
    have hfirst := hP.frame s 0x40#8 [] (answerAt s) (.inl hr) hs
    exact hP.respond _ _ _ (hP.registers _ s.contrast s.power _ (hP.frame _ 0xC0#8 data _ (.inr ⟨rfl, rfl⟩) hfirst))
  | busCommand cmd _ hr =>
    rw [finishBusCommand_frame]
    exact hP.finish _ (hP.frame s cmd [] _ (.inl hr) hs)

/-- Every step keeps what the operations keep. -/
theorem step_keeps {P : State → Prop} (hP : KeptByOperations P) {s t : State} (h : step s = .next t) (hs : P s) :
    P t := by
  obtain ⟨-, ⟨-, rfl⟩ | ⟨_, _, _, op, -, rfl⟩ | ⟨_, _, i, -, -, -, hexec⟩⟩ := step_cases h
  · exact hs
  · exact hP.raise _ _ hs
  · exact exec_keeps hP hexec hs

/-! The invariants of R40. -/

/-- The setting up of `INIT` drives both lines high, whatever they were (R222). -/
theorem initSetup_linesIdleHigh (s : State) : (initSetup s).LinesIdleHigh := ⟨rfl, rfl⟩

theorem not_linesUnconfigured {s : State} (h : s.LinesIdleHigh) : ¬ s.LinesUnconfigured := by
  rintro ⟨hclk, -⟩
  exact absurd (h.1.symm.trans hclk) (by simp)

/-- A ready engine that meets the invariants has its lines idle-high. -/
theorem linesIdleHigh_of_ready {s : State} (h : s.Inv) (hr : s.ctrl = .ready) : s.LinesIdleHigh := by
  obtain hlines | ⟨-, hc⟩ := h.lines
  · exact hlines
  · exact absurd (hr.symm.trans hc) (by simp)

theorem inv_keptByOperations : KeptByOperations State.Inv where
  raise := fun _ _ h => ⟨h.config, h.bufShape, h.cursorRange, h.quiet, h.lines, h.oneResponseEach⟩
  localRequest := fun _ _ _ shape h => by
    obtain ⟨hbuf, hcursor⟩ := shape h.config h.bufShape h.cursorRange
    exact ⟨h.config, hbuf, hcursor, h.quiet, h.lines, h.oneResponseEach⟩
  initSetup := fun u h =>
    ⟨h.config, List.length_replicate, Nat.zero_le _, h.quiet, .inl (initSetup_linesIdleHigh u), h.oneResponseEach⟩
  frame := fun _ _ _ _ _ h => by
    obtain ⟨-, -, -, hfr⟩ := h.quiet
    exact ⟨h.config, h.bufShape, h.cursorRange, ⟨rfl, rfl, rfl, hfr⟩, .inl ⟨rfl, rfl⟩, h.oneResponseEach⟩
  registers := fun _ _ _ _ h => ⟨h.config, h.bufShape, h.cursorRange, h.quiet, h.lines, h.oneResponseEach⟩
  ctrl := fun _ _ _ hlines h => ⟨h.config, h.bufShape, h.cursorRange, h.quiet, .inl hlines, h.oneResponseEach⟩
  respond := fun _ _ _ h => by
    obtain ⟨hfsm, hbit, htx, -⟩ := h.quiet
    exact ⟨h.config, h.bufShape, h.cursorRange, ⟨hfsm, hbit, htx, rfl⟩, h.lines, by simp [h.oneResponseEach]⟩
  finish := fun _ h => by
    obtain ⟨hfsm, hbit, htx, -⟩ := h.quiet
    exact ⟨h.config, h.bufShape, h.cursorRange, ⟨hfsm, hbit, htx, rfl⟩, h.lines, h.oneResponseEach⟩

/-- Settles O42: each operation keeps the invariants (`inv_keptByOperations`), so every step does. -/
theorem everyStepKeepsTheInvariants : Obligations.EveryStepKeepsTheInvariants :=
  fun _ _ hs h => step_keeps inv_keptByOperations h hs

/-! The invariants of the bus. -/

/-- The bus invariants speak of the lines, the trace and `LASTCMD` alone. -/
theorem busInv_of_same_bus {s t : State} (h : s.BusInv) (hclk : t.clk = s.clk) (hdio : t.dio = s.dio)
    (htrace : t.trace = s.trace) (hlast : t.lastCmd = s.lastCmd) : t.BusInv := by
  constructor
  · rw [State.LinesIdleHigh, hclk, hdio, htrace]
    exact h.idle
  · rw [State.LinesUnconfigured, hclk, hdio, htrace]
    exact h.untouched
  · rw [hlast, htrace]
    exact h.lastCmd

theorem readTrace_append (trace es : List Event) :
    readTrace (trace ++ es) = es.foldl Monitor.observe (readTrace trace) := List.foldl_append

/-- A frame on an idle bus leaves the bus idle, and its command byte is then the last frame's first (R26). -/
theorem busInv_afterFrame {s : State} (h : s.BusInv) (hlines : s.LinesIdleHigh) (cmd : Byte) (data : List Byte)
    (ans : Nat → Answer) : (afterFrame cmd (transcript ans (cmd :: data)) s).BusInv := by
  have hidle := h.idle hlines
  have hread : readTrace (s.trace ++ frameEvents (transcript ans (cmd :: data))) =
      { readTrace s.trace with frames := (readTrace s.trace).frames ++ [transcript ans (cmd :: data)] } := by
    rw [readTrace_append, observe_frame _ _ hidle]
  constructor
  · intro _
    rw [afterFrame, hread]
    exact hidle
  · exact fun hun => absurd hun (not_linesUnconfigured ⟨rfl, rfl⟩)
  · rw [afterFrame, hread]
    simp [transcript_head]

/-- The events of `INIT`'s setting up, on lines idle-high or never driven, leave an idle bus and no new frame (R222). -/
theorem readTrace_initSetup {s : State} (h : s.BusInv) (hlines : s.LinesIdleHigh ∨ s.LinesUnconfigured) :
    (readTrace (initSetup s).trace).IdleHigh ∧ (readTrace (initSetup s).trace).frames = (readTrace s.trace).frames := by
  have htrace : (initSetup s).trace = s.trace ++ [.cfg, .dio true, .clk true] := rfl
  rw [htrace, readTrace_append]
  obtain hhigh | hun := hlines
  · obtain ⟨hclk, hdio, hcurrent, hbits⟩ := h.idle hhigh
    simp [Monitor.observe, Monitor.drive, Monitor.rise, Monitor.IdleHigh, hclk, hdio, hcurrent, hbits]
  · rw [h.untouched hun]
    exact ⟨⟨rfl, rfl, rfl, rfl⟩, rfl⟩

/-- The setting up of `INIT` keeps the bus invariants. -/
theorem busInv_initSetup {s : State} (h : s.BusInv) (hlines : s.LinesIdleHigh ∨ s.LinesUnconfigured) :
    (initSetup s).BusInv := by
  obtain ⟨hidle, hframes⟩ := readTrace_initSetup h hlines
  constructor
  · exact fun _ => hidle
  · exact fun hun => absurd hun (not_linesUnconfigured (initSetup_linesIdleHigh s))
  · rw [hframes]
    exact h.lastCmd

theorem busInv_keptByOperations : KeptByOperations fun u => u.Inv ∧ u.BusInv where
  raise := fun u f ⟨hi, hb⟩ => ⟨inv_keptByOperations.raise u f hi, busInv_of_same_bus hb rfl rfl rfl rfl⟩
  localRequest := fun u buf cursor shape ⟨hi, hb⟩ =>
    ⟨inv_keptByOperations.localRequest u buf cursor shape hi, busInv_of_same_bus hb rfl rfl rfl rfl⟩
  initSetup := fun u ⟨hi, hb⟩ =>
    ⟨inv_keptByOperations.initSetup u hi, busInv_initSetup hb (hi.lines.imp_right And.left)⟩
  frame := fun u cmd data ans hstart ⟨hi, hb⟩ =>
    ⟨inv_keptByOperations.frame u cmd data ans hstart hi,
      busInv_afterFrame hb (hstart.elim (linesIdleHigh_of_ready hi) id) cmd data ans⟩
  registers := fun u contrast power lastResult ⟨hi, hb⟩ =>
    ⟨inv_keptByOperations.registers u contrast power lastResult hi, busInv_of_same_bus hb rfl rfl rfl rfl⟩
  ctrl := fun u c hc hlines ⟨hi, hb⟩ =>
    ⟨inv_keptByOperations.ctrl u c hc hlines hi, busInv_of_same_bus hb rfl rfl rfl rfl⟩
  respond := fun u r data ⟨hi, hb⟩ =>
    ⟨inv_keptByOperations.respond u r data hi, busInv_of_same_bus hb rfl rfl rfl rfl⟩
  finish := fun u ⟨hi, hb⟩ => ⟨inv_keptByOperations.finish u hi, busInv_of_same_bus hb rfl rfl rfl rfl⟩

/-- Settles O43: each operation keeps both kinds of invariants (`busInv_keptByOperations`), so every step does. -/
theorem everyStepKeepsTheBusInvariants : Obligations.EveryStepKeepsTheBusInvariants :=
  fun _ _ hi hb h => (step_keeps busInv_keptByOperations h ⟨hi, hb⟩).2

/-! What only grows, and how far. -/

/-- `t` has the configuration of `s`, is ready if `s` is, and its trace and responses begin with those of `s`. -/
def Extends (s t : State) : Prop :=
  t.cfg = s.cfg ∧ (s.ctrl = .ready → t.ctrl = .ready) ∧ s.trace <+: t.trace ∧ s.responses <+: t.responses

theorem extends_keptByOperations (s : State) : KeptByOperations (Extends s) where
  raise := fun _ _ h => h
  localRequest := fun _ _ _ _ h => h
  initSetup := fun _ ⟨hcfg, hctrl, htrace, hresponses⟩ =>
    ⟨hcfg, hctrl, htrace.trans (List.prefix_append _ _), hresponses⟩
  frame := fun _ _ _ _ _ ⟨hcfg, hctrl, htrace, hresponses⟩ =>
    ⟨hcfg, hctrl, htrace.trans (List.prefix_append _ _), hresponses⟩
  registers := fun _ _ _ _ h => h
  ctrl := fun _ _ hc _ ⟨hcfg, hctrl, htrace, hresponses⟩ =>
    ⟨hcfg, fun hr => hc.elim (fun hsame => hsame.trans (hctrl hr)) id, htrace, hresponses⟩
  respond := fun _ _ _ ⟨hcfg, hctrl, htrace, hresponses⟩ =>
    ⟨hcfg, hctrl, htrace, hresponses.trans (List.prefix_append _ _)⟩
  finish := fun _ h => h

/-- Settles O44: each operation only extends (`extends_keptByOperations`), so every step does. -/
theorem configurationReadyAndTracePersist : Obligations.ConfigurationReadyAndTracePersist := fun s _ h =>
  step_keeps (extends_keptByOperations s) h ⟨rfl, id, List.prefix_rfl, List.prefix_rfl⟩

/-- An instruction draws an answer for each byte of its frames: one command byte and at most one or `DIGITS` data bytes, and
with `COMMIT` one command byte more (R276). -/
theorem exec_draws {i : Instr} {s t : State} (h : exec i s = .next t) :
    ∃ drawn, t.draws = s.draws + drawn ∧ drawn ≤ 2 + s.cfg.digits := by
  have hone : ∀ cmd, (transcript (answerAt s) [cmd]).length ≤ 1 := fun cmd => transcript_length_le _ [cmd]
  cases exec_effect h with
  | notReady | badOperand | localRequest | pinsEqual => exact ⟨0, rfl, Nat.zero_le _⟩
  | initialised =>
    rw [initialise_eq]
    exact ⟨_, rfl, (hone _).trans (by omega)⟩
  | sent cmd data =>
    rw [sendFrame_eq]
    exact ⟨_, rfl, (transcript_length_le _ _).trans (by simp only [List.length_cons]; omega)⟩
  | switched | contrastSet =>
    rw [powerRequest_eq]
    exact ⟨_, rfl, (hone _).trans (by omega)⟩
  | committed reorder data _ _ hlen =>
    rw [commitFrames_eq]
    have hsecond : ∀ ans, (transcript ans (0xC0#8 :: data)).length ≤ data.length + 1 := fun ans => transcript_length_le ans _
    exact ⟨_, Nat.add_assoc _ _ _, (Nat.add_le_add (hone _) (hsecond _)).trans (by omega)⟩
  | busCommand =>
    rw [finishBusCommand_frame]
    exact ⟨_, rfl, (hone _).trans (by omega)⟩

/-- Settles O48: the one step that draws runs an instruction (`exec_draws`). -/
theorem ackWaitsAreBounded : Obligations.AckWaitsAreBounded := by
  intro s t _ h
  suffices hdraws : ∃ drawn, t.draws = s.draws + drawn ∧ drawn ≤ 2 + s.cfg.digits by
    obtain ⟨drawn, hdrawn, hle⟩ := hdraws
    omega
  obtain ⟨-, ⟨-, rfl⟩ | ⟨_, _, _, _, -, rfl⟩ | ⟨_, _, i, -, -, -, hexec⟩⟩ := step_cases h
  · exact ⟨0, rfl, Nat.zero_le _⟩
  · exact ⟨0, rfl, Nat.zero_le _⟩
  · exact exec_draws hexec

end Sys2Proof.Machine

namespace Sys2Proof.Machine

/-! Every request completes (20_memory.md R71): with its operand supplied it answers a next state, which carries one response or
one fault. -/

theorem requireReady_next {op : Byte} {s : State} {body : Host.Outcome State Fault Refusal}
    (h : ∃ t, body = .next t) : ∃ t, requireReady op s body = .next t := by
  cases hc : s.ctrl with
  | ready => rwa [requireReady_of_ready hc]
  | uninitialized => exact ⟨_, requireReady_of_uninitialized _ hc⟩

/-- With its operand supplied, the gathering ends in bytes to send or in a fault recorded (R265). -/
theorem withGathered_next {s : State} {reorder : Option Memory} {count : Nat} (send : List Byte → State) (h : s.Inv)
    (hcount : count ≤ s.cfg.digits) (hr : reorderShape s.cfg.digits reorder = true) :
    ∃ t, withGathered (gather s reorder count) s send = .next t := by
  obtain ⟨data, hg, -⟩ | ⟨k, hg⟩ := gather_supplied s reorder count h.bufShape hcount hr
  · exact ⟨_, by rw [hg]; rfl⟩
  · exact ⟨_, by rw [hg]; rfl⟩

/-- Under the invariants every instruction of the right operand shape answers a next state. -/
theorem exec_next_of_wellFormed {i : Instr} {s : State} (h : s.Inv) (hw : i.wellFormed s.cfg.digits = true) :
    ∃ t, exec i s = .next t := by
  cases i with
  | puts n str =>
    have hlen : str.length = n.toNat := by simpa [Instr.wellFormed] using hw
    exact ⟨_, exec_puts s hlen.symm⟩
  | sendbuf cmd count reorder =>
    refine requireReady_next ?_
    split
    · exact ⟨_, rfl⟩
    · exact withGathered_next _ h (by omega) hw
  | commit reorder => exact requireReady_next (withGathered_next _ h (Nat.le_refl _) hw)
  | init =>
    simp only [exec, execInit]
    split <;> exact ⟨_, rfl⟩
  | sendcmd | sendcmdb | pwron | pwroff | toggle | setcontrast | busDataCmd | busDisplayCtrl | busAddress =>
    exact requireReady_next ⟨_, rfl⟩
  | _ => exact ⟨_, rfl⟩

/-- A host request that records no fault takes one response and one step of the host's index (R20, R100). -/
theorem exec_request_responds {i : Instr} {s t : State} (hbus : isBusCommand i = false) (h : exec i s = .next t) :
    (∃ f, t = raise f s) ∨
      t.fault = s.fault ∧ t.hostIndex = s.hostIndex + 1 ∧ t.hostPending = s.hostPending.drop 1 ∧
        ∃ word, t.responses = s.responses ++ [word] := by
  cases exec_effect h with
  | notReady | badOperand => exact .inl ⟨_, rfl⟩
  | localRequest | pinsEqual => exact .inr ⟨rfl, rfl, rfl, _, rfl⟩
  | initialised =>
    rw [initialise_eq]
    exact .inr ⟨rfl, rfl, rfl, _, rfl⟩
  | sent =>
    rw [sendFrame_eq]
    exact .inr ⟨rfl, rfl, rfl, _, rfl⟩
  | switched | contrastSet =>
    rw [powerRequest_eq]
    exact .inr ⟨rfl, rfl, rfl, _, rfl⟩
  | committed =>
    rw [commitFrames_eq]
    exact .inr ⟨rfl, rfl, rfl, _, rfl⟩
  | busCommand cmd hi => exact absurd hi (by simp [hbus])

/-- No request word decodes to a bus command (R92, R102). -/
theorem isBusCommand_of_decodeRequest {w : Word} {operand : Memory} {i : Instr} (h : decodeRequest w operand = .ok i) :
    isBusCommand i = false := by
  unfold decodeRequest at h
  split at h <;> cases h <;> rfl

/-- Settles O8: the request answers (`exec_next_of_wellFormed`), and what it answers carries a response or a fault
(`exec_request_responds`). -/
theorem everyRequestCompletesInOneStep : Obligations.EveryRequestCompletesInOneStep := by
  intro s w operand rest i hinv hf hp hd hw
  obtain ⟨t, hexec⟩ := exec_next_of_wellFormed hinv hw
  refine ⟨t, (stepRunsTheDecodedInstruction s _ rest i hf hp hd hw).trans hexec, ?_⟩
  obtain hraise | ⟨hfault, hindex, hpending, hword⟩ := exec_request_responds (isBusCommand_of_decodeRequest hd) hexec
  · exact .inr hraise
  · exact .inl ⟨hfault.trans hf, hindex, by rw [hpending, hp]; rfl, hword⟩

/-! Segments and radix bits (10_state.md R22). -/

/-- A bit that the update of a digit keeps is kept in every digit. -/
theorem digitsMapped_keeps_bit {s : State} {p : Nat → Bool} {f : Byte → Byte} {j k : Nat} {before after : Byte}
    (hf : ∀ b, (f b).getLsbD k = b.getLsbD k) (hbefore : s.buf[j]? = some before)
    (hafter : (digitsMapped s p f)[j]? = some after) : after.getLsbD k = before.getLsbD k := by
  rw [digitsMapped_getElem?, hbefore, Option.map_some, Option.some.injEq] at hafter
  rw [← hafter]
  split
  · exact hf before
  · rfl

theorem withSegments_radix_bit (mask b : Byte) : (withSegments mask b).getLsbD 7 = b.getLsbD 7 := by
  simp [withSegments]

theorem getLsbD_0x80 : ∀ {k : Nat}, k < 7 → (0x80#8).getLsbD k = false := by decide

theorem getLsbD_0x7F : ∀ {k : Nat}, k < 7 → (0x7F#8).getLsbD k = true := by decide

theorem radixSet_segment_bit {k : Nat} (hk : k < 7) (b : Byte) : (radixSet b).getLsbD k = b.getLsbD k := by
  simp [radixSet, getLsbD_0x80 hk]

theorem radixClear_segment_bit {k : Nat} (hk : k < 7) (b : Byte) : (radixClear b).getLsbD k = b.getLsbD k := by
  simp [radixClear, getLsbD_0x7F hk]

theorem radixFlip_segment_bit {k : Nat} (hk : k < 7) (b : Byte) : (radixFlip b).getLsbD k = b.getLsbD k := by
  simp [radixFlip, getLsbD_0x80 hk]

/-- A fill keeps the radix bit of every digit. -/
theorem fillSegments_keeps_radix {mask : Byte} {start stop j : Nat} {s : State} {before after : Byte}
    (hbefore : s.buf[j]? = some before) (hafter : (fillSegments mask start stop s).buf[j]? = some after) :
    after.getLsbD 7 = before.getLsbD 7 := by
  rw [fillSegments_eq] at hafter
  split at hafter
  · exact digitsMapped_keeps_bit (withSegments_radix_bit mask) hbefore hafter
  · rw [Option.some.inj (hbefore.symm.trans hafter)]

/-- An update of one digit keeps every bit of the buffer that its function keeps. -/
theorem updateDigit_keeps_bit {i j k : Nat} {f : Byte → Byte} {s : State} {before after : Byte}
    (hf : ∀ b, (f b).getLsbD k = b.getLsbD k) (hbefore : s.buf[j]? = some before)
    (hafter : (updateDigit i f s).buf[j]? = some after) : after.getLsbD k = before.getLsbD k := by
  rw [updateDigit_eq] at hafter
  exact digitsMapped_keeps_bit hf hbefore hafter

/-- Settles O22: the segment requests write digits by `withSegments`, which keeps bit 7, and the radix requests by
`radixSet`, `radixClear` and `radixFlip`, which keep bits 6 to 0. -/
theorem segmentsAndRadixAreIndependent : Obligations.SegmentsAndRadixAreIndependent := by
  intro s t i j k before after h hbefore hafter _
  constructor
  · rintro ⟨a, b, c, rfl | rfl | rfl | rfl⟩ rfl <;> cases h
    · exact updateDigit_keeps_bit (withSegments_radix_bit b) hbefore hafter
    all_goals exact fillSegments_keeps_radix hbefore hafter
  · rintro ⟨a, rfl | rfl | rfl⟩ hk <;> cases h
    · exact updateDigit_keeps_bit (radixSet_segment_bit hk) hbefore hafter
    · exact updateDigit_keeps_bit (radixClear_segment_bit hk) hbefore hafter
    · exact updateDigit_keeps_bit (radixFlip_segment_bit hk) hbefore hafter

/-! Bus commands (log 8). -/

/-- A bus command is sent as the byte it is encoded as. -/
theorem exec_busCommand {i : Instr} {b : Byte} (s : State) (hi : isBusCommand i = true) (hb : encode i = .busCommand b) :
    exec i s = sendBusCommand b s := by
  cases i with
  | busDataCmd | busDisplayCtrl | busAddress =>
    cases hb
    rfl
  | _ => cases hi

/-- Settles O37: the three families are one gated frame (`exec_busCommand`). -/
theorem busCommandsAreFramed : Obligations.BusCommandsAreFramed := by
  intro s i b hi hb
  rw [exec_busCommand s hi hb]
  refine ⟨fun hc => requireReady_of_uninitialized _ hc, fun hr => ?_⟩
  refine ⟨finishBusCommand (frame b [] s), requireReady_of_ready hr, sendsFrames_one (frame_sendsFrames b [] s), ?_⟩
  rw [finishBusCommand_frame]
  rfl

/-! Who writes which register (10_state.md R38). -/

/-- The local requests that read only leave `BUF`, and those that place no character or fill leave `CURSOR`. -/
theorem exec_local_writers {i : Instr} {s t : State} (hi : isLocalRequest i = true) (h : exec i s = .next t) :
    (t.buf ≠ s.buf → (∀ c, i ≠ .lookup c) ∧ i ≠ .getcur ∧ ∀ x, i ≠ .setcur x) ∧
      (t.cursor ≠ s.cursor → (∃ m a b, i = .fill m a b) ∨ i = .clear ∨ i = .fillall ∨ (∃ x, i = .setcur x) ∨
        (∃ x, i = .putc x) ∨ ∃ n x, i = .puts n x) := by
  cases i with
  | lookup | getcur =>
    cases h
    exact ⟨absurd rfl, absurd rfl⟩
  | setcur x =>
    cases h
    have hbuf : (placeCursor x.toNat s).buf = s.buf := by
      unfold placeCursor
      split <;> rfl
    exact ⟨absurd hbuf, by simp⟩
  | segset | radixon | radixoff | radixtgl =>
    cases h
    exact ⟨by simp, absurd rfl⟩
  | fill | clear | fillall | putc | puts => exact ⟨by simp, by simp⟩
  | _ => cases hi

/-- `POWER` and `CTRL` take their new value only with a success (R25, R28). -/
theorem success_of_ite_ne {α : Type} {r : TransmissionResult} {new old : α}
    (h : (if r = .success then new else old) ≠ old) : some r = some .success := by
  by_cases hr : r = .success
  · rw [hr]
  · exact absurd (if_neg hr) h

/-- Settles O46, by the cases of `exec_effect`: the fields that each operation names are the only ones it writes. -/
theorem registersHaveTheirWriters : Obligations.RegistersHaveTheirWriters := by
  intro i s t h
  cases exec_effect h with
  | notReady | badOperand => exact ⟨absurd rfl, absurd rfl, absurd rfl, absurd rfl, absurd rfl, absurd rfl, absurd rfl⟩
  | localRequest buf cursor data hi =>
    obtain ⟨hbuf, hcursor⟩ := exec_local_writers hi h
    exact ⟨fun hne => .inr ⟨hi, hbuf hne⟩, fun hne => .inr (hcursor hne), absurd rfl, absurd rfl, absurd rfl, absurd rfl,
      absurd rfl⟩
  | pinsEqual hi =>
    exact ⟨absurd rfl, absurd rfl, absurd rfl, absurd rfl, absurd rfl, absurd rfl, fun _ => .inl hi⟩
  | initialised hi =>
    rw [initialise_eq]
    exact ⟨fun _ => .inl hi, fun _ => .inl hi, fun _ => .inl hi, fun hne => ⟨.inl hi, success_of_ite_ne hne⟩,
      fun hne => ⟨hi, success_of_ite_ne hne⟩, fun _ => .inl hi, fun _ => .inl hi⟩
  | sent cmd data op hi =>
    rw [sendFrame_eq]
    exact ⟨absurd rfl, absurd rfl, absurd rfl, absurd rfl, absurd rfl, fun _ => .inr (.inl ⟨op, hi⟩),
      fun _ => .inr ⟨op, hi⟩⟩
  | switched on hi =>
    rw [powerRequest_eq]
    have hop : ∃ op, busRequestOp i = some op := by
      obtain rfl | rfl | rfl := hi <;> exact ⟨_, rfl⟩
    have hwriter : i = .init ∨ i = .pwron ∨ i = .pwroff ∨ i = .toggle ∨ ∃ l, i = .setcontrast l :=
      .inr (hi.imp_right (Or.imp_right .inl))
    exact ⟨absurd rfl, absurd rfl, absurd rfl, fun hne => ⟨hwriter, success_of_ite_ne hne⟩, absurd rfl,
      fun _ => .inr (.inl hop), fun _ => .inr hop⟩
  | contrastSet level hi =>
    rw [powerRequest_eq]
    have hop : ∃ op, busRequestOp i = some op := by
      rw [hi]
      exact ⟨_, rfl⟩
    exact ⟨absurd rfl, absurd rfl, fun _ => .inr ⟨level, hi⟩,
      fun hne => ⟨.inr (.inr (.inr (.inr ⟨level, hi⟩))), success_of_ite_ne hne⟩, absurd rfl,
      fun _ => .inr (.inl hop), fun _ => .inr hop⟩
  | committed reorder data hi =>
    rw [commitFrames_eq]
    have hop : ∃ op, busRequestOp i = some op := by
      rw [hi]
      exact ⟨_, rfl⟩
    exact ⟨absurd rfl, absurd rfl, absurd rfl, absurd rfl, absurd rfl, fun _ => .inr (.inl hop), fun _ => .inr hop⟩
  | busCommand cmd hi =>
    rw [finishBusCommand_frame]
    exact ⟨absurd rfl, absurd rfl, absurd rfl, absurd rfl, absurd rfl, fun _ => .inr (.inr hi), absurd rfl⟩

end Sys2Proof.Machine

namespace Sys2Proof.Machine

/-! The receiver's answers (00_scope.md R5): two runs that differ in them alone. -/

/-- `u` agrees with `t` on what the receiver's answers do not reach. -/
structure AgreesApartFromAnswers (t u : State) : Prop where
  cfg : u.cfg = t.cfg := by rfl
  buf : u.buf = t.buf := by rfl
  cursor : u.cursor = t.cursor := by rfl
  contrast : u.contrast = t.contrast := by rfl
  lastCmd : u.lastCmd = t.lastCmd := by rfl
  fault : u.fault = t.fault := by rfl
  clk : u.clk = t.clk := by rfl
  dio : u.dio = t.dio := by rfl
  fsm : u.fsm = t.fsm := by rfl
  hostPending : u.hostPending = t.hostPending := by rfl
  hostIndex : u.hostIndex = t.hostIndex := by rfl
  responseCount : u.responses.length = t.responses.length := by rfl

/-- Two runs that agree still agree after a response, whatever each returns. -/
theorem agrees_respond {t u : State} (h : AgreesApartFromAnswers t u) (r r' : TransmissionResult)
    (data data' : Byte) : AgreesApartFromAnswers (respond r data t) (respond r' data' u) where
  cfg := h.cfg
  buf := h.buf
  cursor := h.cursor
  contrast := h.contrast
  lastCmd := h.lastCmd
  fault := h.fault
  clk := h.clk
  dio := h.dio
  fsm := h.fsm
  hostPending := by simp [h.hostPending]
  hostIndex := by simp [h.hostIndex]
  responseCount := by simp [h.responseCount]

/-- Where `o` answers a next state, so does `o'`, and the two agree apart from the receiver's answers. -/
def OutcomesAgree (o o' : Host.Outcome State Fault Refusal) : Prop :=
  ∀ t, o = .next t → ∃ u, o' = .next u ∧ AgreesApartFromAnswers t u

theorem outcomesAgree_next {t u : State} (h : AgreesApartFromAnswers t u) : OutcomesAgree (.next t) (.next u) := by
  rintro _ ⟨⟩
  exact ⟨u, rfl, h⟩

theorem outcomesAgree_fault (f : Fault) (o : Host.Outcome State Fault Refusal) : OutcomesAgree (.fault f) o :=
  fun _ h => absurd h (by simp)

theorem outcomesAgree_refused (r : Refusal) (o : Host.Outcome State Fault Refusal) : OutcomesAgree (.refused r) o :=
  fun _ h => absurd h (by simp)

theorem outcomesAgree_ite {c : Prop} [Decidable c] {o o' p p' : Host.Outcome State Fault Refusal}
    (hthen : OutcomesAgree o o') (helse : OutcomesAgree p p') :
    OutcomesAgree (if c then o else p) (if c then o' else p') := by
  split
  · exact hthen
  · exact helse

/-- The state `s` before other answers of the receiver (log 4). -/
def redraw (answers : List Answer) (draws : Nat) (s : State) : State := { s with answers := answers, draws := draws }

section
variable {s : State} {answers : List Answer} {draws : Nat}

theorem outcomesAgree_requireReady {op : Byte} {body body' : Host.Outcome State Fault Refusal}
    (h : OutcomesAgree body body') :
    OutcomesAgree (requireReady op s body) (requireReady op (redraw answers draws s) body') := by
  cases hc : s.ctrl with
  | ready => rwa [requireReady_of_ready hc, requireReady_of_ready (s := redraw answers draws s) hc]
  | uninitialized =>
    rw [requireReady_of_uninitialized _ hc, requireReady_of_uninitialized (s := redraw answers draws s) _ hc]
    exact outcomesAgree_next {}

theorem outcomesAgree_withGathered {g : Gathered} {send send' : List Byte → State}
    (h : ∀ data, AgreesApartFromAnswers (send data) (send' data)) :
    OutcomesAgree (withGathered g s send) (withGathered g (redraw answers draws s) send') := by
  cases g with
  | bytes data => exact outcomesAgree_next (h data)
  | badReorder i => exact outcomesAgree_next {}
  | noSuchByte addr => exact outcomesAgree_fault _ _

/-! The request bodies that send frames. -/

theorem sendFrame_agrees (cmd : Byte) (data : List Byte) :
    AgreesApartFromAnswers (sendFrame cmd data s) (sendFrame cmd data (redraw answers draws s)) := by
  rw [sendFrame_eq, sendFrame_eq]
  exact agrees_respond {} _ _ _ _

theorem powerRequest_agrees (on : Bool) :
    AgreesApartFromAnswers (powerRequest on s) (powerRequest on (redraw answers draws s)) := by
  rw [powerRequest_eq, powerRequest_eq]
  exact agrees_respond {} _ _ _ _

theorem initialise_agrees : AgreesApartFromAnswers (initialise s) (initialise (redraw answers draws s)) := by
  rw [initialise_eq, initialise_eq]
  exact agrees_respond {} _ _ _ _

theorem commitFrames_agrees (data : List Byte) :
    AgreesApartFromAnswers (commitFrames data s) (commitFrames data (redraw answers draws s)) := by
  rw [commitFrames_eq, commitFrames_eq]
  exact agrees_respond {} _ _ _ _

theorem busCommand_agrees (cmd : Byte) :
    AgreesApartFromAnswers (finishBusCommand (frame cmd [] s))
      (finishBusCommand (frame cmd [] (redraw answers draws s))) := by
  rw [finishBusCommand_frame, finishBusCommand_frame]
  exact {}

/-! The local requests: they read the configuration, `BUF` and `CURSOR` alone. -/

theorem updateDigit_reads (i : Nat) (f : Byte → Byte) (v : State) (hcfg : v.cfg = s.cfg) :
    updateDigit i f { v with buf := s.buf, cursor := s.cursor } =
      { v with buf := (updateDigit i f s).buf, cursor := s.cursor } := by
  simp only [updateDigit, inBounds, hcfg]

theorem fillSegments_reads (mask : Byte) (start stop : Nat) (v : State) (hcfg : v.cfg = s.cfg) :
    fillSegments mask start stop { v with buf := s.buf, cursor := s.cursor } =
      { v with buf := (fillSegments mask start stop s).buf, cursor := (fillSegments mask start stop s).cursor } := by
  simp only [fillSegments_eq, digitsMapped, hcfg]
  split <;> rfl

theorem placeCursor_reads (index : Nat) (v : State) (hcfg : v.cfg = s.cfg) :
    placeCursor index { v with buf := s.buf, cursor := s.cursor } =
      { v with buf := (placeCursor index s).buf, cursor := (placeCursor index s).cursor } := by
  simp only [placeCursor, inBounds, hcfg]
  split <;> rfl

theorem next_respond_congr {u v : State} (data : Byte) (h : u = v) :
    Host.Outcome.next (φ := Fault) (ρ := Refusal) (respond .success data u) = .next (respond .success data v) := by
  rw [h]

/-- A local request does the same in every state with the configuration, `BUF` and `CURSOR` of `s`. -/
theorem exec_local_reads {i : Instr} {t : State} (v : State) (hcfg : v.cfg = s.cfg) (hi : isLocalRequest i = true)
    (h : exec i s = .next t) :
    exec i { v with buf := s.buf, cursor := s.cursor } =
      .next (respond .success (localData s i) { v with buf := t.buf, cursor := t.cursor }) := by
  cases i with
  | segset | radixon | radixoff | radixtgl =>
    cases h
    exact next_respond_congr 0 (updateDigit_reads _ _ v hcfg)
  | fill =>
    cases h
    exact next_respond_congr 0 (fillSegments_reads _ _ _ v hcfg)
  | clear | fillall =>
    cases h
    rw [← hcfg]
    exact next_respond_congr 0 (fillSegments_reads _ _ _ v hcfg)
  | getcur =>
    cases h
    rfl
  | lookup code =>
    cases h
    exact exec_lookup (congrArg (fun c => lookup code c.font) hcfg)
  | setcur =>
    cases h
    exact next_respond_congr 0 (placeCursor_reads _ v hcfg)
  | putc code =>
    cases h
    exact exec_putc (writeChar_reads code s v hcfg)
  | puts n str =>
    simp only [exec, execPuts] at h ⊢
    split at h
    · exact absurd h (by simp)
    · rename_i hlen
      cases h
      rw [if_neg hlen, writeString_reads _ s v hcfg]
      rfl
  | _ => cases hi

theorem exec_local_agrees {i : Instr} (hi : isLocalRequest i = true) :
    OutcomesAgree (exec i s) (exec i (redraw answers draws s)) := by
  intro t h
  refine ⟨_, exec_local_reads (redraw answers draws s) rfl hi h, ?_⟩
  obtain ⟨buf, cursor, rfl⟩ := exec_local hi h
  exact agrees_respond {} _ _ _ _

/-- Every instruction acts alike whatever the receiver answers, apart from what the answers reach. -/
theorem exec_agrees (i : Instr) : OutcomesAgree (exec i s) (exec i (redraw answers draws s)) := by
  cases i with
  | sendcmd | sendcmdb => exact outcomesAgree_requireReady (outcomesAgree_next (sendFrame_agrees _ _))
  | sendbuf cmd count reorder =>
    refine outcomesAgree_requireReady (outcomesAgree_ite (outcomesAgree_next {}) ?_)
    exact outcomesAgree_withGathered (sendFrame_agrees cmd)
  | init => exact outcomesAgree_ite (outcomesAgree_next (agrees_respond {} _ _ _ _)) (outcomesAgree_next initialise_agrees)
  | commit reorder => exact outcomesAgree_requireReady (outcomesAgree_withGathered commitFrames_agrees)
  | pwron | pwroff | toggle => exact outcomesAgree_requireReady (outcomesAgree_next (powerRequest_agrees _))
  | setcontrast level =>
    exact outcomesAgree_requireReady
      (outcomesAgree_next (powerRequest_agrees (s := setContrastReg (clampLevel level) s) true))
  | busDataCmd | busDisplayCtrl | busAddress =>
    exact outcomesAgree_requireReady (outcomesAgree_next (busCommand_agrees _))
  | _ => exact exec_local_agrees rfl

/-- Every step acts alike whatever the receiver answers, apart from what the answers reach. -/
theorem step_agrees : OutcomesAgree (step s) (step (redraw answers draws s)) := by
  cases hf : s.fault with
  | some f =>
    rw [step_of_fault hf]
    exact outcomesAgree_fault _ _
  | none =>
    cases hp : s.hostPending with
    | nil =>
      rw [step_of_no_request hf hp, step_of_no_request (s := redraw answers draws s) hf hp]
      exact outcomesAgree_next {}
    | cons item rest =>
      cases hd : decode item with
      | error e =>
        rw [step_of_decode_error hf hp hd, step_of_decode_error (s := redraw answers draws s) hf hp hd]
        cases e with
        | undefinedOpcode op => exact outcomesAgree_next {}
        | noCommandFamily b => exact outcomesAgree_refused _ _
      | ok i =>
        rw [step_of_decode hf hp hd, step_of_decode (s := redraw answers draws s) hf hp hd]
        exact outcomesAgree_ite (exec_agrees i) (outcomesAgree_refused _ _)

end

/-- Settles O47, by `step_agrees`. -/
theorem answersDoNotReachTheBuffer : Obligations.AnswersDoNotReachTheBuffer := by
  intro s t answers draws h
  obtain ⟨u, hu, hagrees⟩ := step_agrees (answers := answers) (draws := draws) t h
  exact ⟨u, hu, hagrees.cfg, hagrees.buf, hagrees.cursor, hagrees.contrast, hagrees.lastCmd, hagrees.fault, hagrees.clk,
    hagrees.dio, hagrees.fsm, hagrees.hostPending, hagrees.hostIndex, hagrees.responseCount⟩

end Sys2Proof.Machine
